-- ==== Sys2Proof/Word.lean ====
section
/-! DEFINITION. The byte of the block and the answers its transport can give.

Every data value of the block is one unsigned byte (R10, R51). The transport's answers are inputs
of the model (R9, R36); they are kept as plain data, in the order the transport gives them. -/

namespace Sys2Proof

/-- A byte, 0 to 255 (R13). -/
abbrev Byte := BitVec 8

/-- One entry of RX_STREAM: what the transport says to one read request (R36, R52).
`withheld` stands for a request that has not been answered yet: the command that made it waits
(R219). DESIGN CHOICE (log 5): the spec gives the infinite wait, the entry is the model's way to
say where in the stream it happens. -/
inductive RxItem where
  /-- `Byte(b)`: exactly one byte (R52). -/
  | byte (b : Byte)
  /-- `Fail`: a timeout, a short read, a closed stream or an I/O error (R52). -/
  | fail
  /-- No answer yet: the read blocks until the transport wakes (R219). -/
  | withheld
deriving DecidableEq, Repr

/-- What the transport says to one whole-frame write (R53), or that it has not answered (R219). -/
inductive TxItem where
  /-- `Ok`: the whole sequence is on the wire (R53). -/
  | ok
  /-- `Fail` after the first `sent` bytes reached the wire; `sent` is free, so every leading part
  of the sequence, none and all included, is possible (R53, D26). -/
  | fail (sent : Nat)
  /-- No answer yet: the write blocks until the transport wakes (R219). -/
  | withheld
deriving DecidableEq, Repr, Inhabited

/-- What the block hands the transport with one read request (R52). -/
structure ReadRequest where
  minBytes : Nat
  timeout  : Nat
deriving DecidableEq, Repr

/-- The unit exchanged over the link (R14). -/
structure Packet where
  typeID  : Byte
  payload : List Byte
deriving DecidableEq, Repr

end Sys2Proof
end

