-- ==== Sys2Proof/Config.lean ====
section
/-! DEFINITION. The parameters of R10, R11 and R12: the values the source fixes, the values the
spec chooses, the values it leaves open, and the one free value of the model. -/

namespace Sys2Proof

/-- DLE, the sentinel (R10). -/
def Config.dle : Byte := 0x10
/-- ETX, the second byte of the terminator (R10). -/
def Config.etx : Byte := 0x03
/-- MAX_PAYLOAD, the largest payload length and the size of both payload buffers (R10, R11). -/
def Config.maxPayload : Nat := 255
/-- The bytes asked for by one transport read (R10, R52). -/
def Config.minBytes : Nat := 1
/-- LEN_W, the width of TX_LEN: 16 by decision D14 (R12, R29). -/
abbrev Config.lenW : Nat := 16
/-- The size of FRAME_BUF, the longest frame (R11, R35). -/
def Config.frameBufSize : Nat := 517
/-- READ_TIMEOUT: OPEN. The block passes it on and never interprets it (R12, R52, D17). -/
opaque Config.readTimeout : Nat
/-- The transport's answer to the k-th `TxWrite` for which the state lists no answer. R53 makes
every answer a free input, so nothing is known of it (log 4). -/
opaque Config.freeTxAnswer : Nat → TxItem

/-- A value as wide as TX_LEN, the widest host register (R21, R29). -/
abbrev LenWord := BitVec Config.lenW

end Sys2Proof
end

