-- ==== Sys2Proof/Syntax.lean ====
section
/-! DEFINITION. The five commands (R71), the host-visible registers (R21), the inputs that reach the
block from outside (R9, R211, R219), and the written form of test programs (R77, R78). -/

namespace Sys2Proof

/-- The commands of R71, one constructor per row of spec/opcode_table.json. No command has an
operand in its word (R70, R72). -/
inductive Instr where
  /-- CK.RESET (R101). -/
  | ckReset
  /-- CK.ABSORB (R102). -/
  | ckAbsorb
  /-- CK.FINALIZE (R103). -/
  | ckFinalize
  /-- ENCODE (R125). -/
  | encode
  /-- DECODE (R140). -/
  | decode
deriving DecidableEq, Repr

/-- The host-visible registers of R21. -/
inductive Reg where
  | cmd | din | status | busy | ckResult | txType | txLen | rxValid | rxType | rxLen
  | txPayload (i : Fin 255)
  | rxPayload (i : Fin 255)
deriving DecidableEq, Repr

/-- Why a command word is no command: the two halves of R73. -/
inductive DecodeError where
  /-- CMD[7:4] is not 0 (R70, R73). -/
  | zeroFieldSet (w : Byte)
  /-- CMD[7:4] is 0 and OP is none of 1 to 5 (R71, R73). -/
  | reservedOp (w : Byte)
deriving DecidableEq, Repr

/-- What the outside world does to the block, one at a time (R9, R58). A register is named by its
number, so that an unassigned number can be asked for (R21). HOST_BINDING is open (R12, R56): the
model sees abstract register writes and reads only. -/
inductive Input where
  /-- A host write of a register; a write of CMD issues the command (R21, R25, R70). -/
  | hostWrite (num : Nat) (value : LenWord)
  /-- A host read of a register (R21). -/
  | hostRead (num : Nat)
  /-- The transport answers a request it had withheld (R219). -/
  | transportWake
  /-- Hardware reset (R210). When it interrupts a `TxWrite`, the first `sent` bytes of the frame
  have reached the wire (R211). -/
  | hardReset (sent : Nat)
deriving DecidableEq, Repr

/-- One line of the written form of a test program: R77's actions and R78's pseudo-instructions. -/
inductive AsmLine where
  /-- `SET <reg>, <value>`. -/
  | set (r : Reg) (value : LenWord)
  /-- `GET <reg>`. -/
  | get (r : Reg)
  /-- A command's mnemonic alone. -/
  | command (i : Instr)
  /-- `CK.ABSORB <b>`. -/
  | absorb (b : Byte)
  /-- `CK.SUM <b0>, …`. -/
  | sum (bs : List Byte)
  /-- `SEND <t>, [<p0>, …]`. -/
  | send (t : Byte) (ps : List Byte)
deriving DecidableEq, Repr

end Sys2Proof
end

