-- ==== Sys2Proof/Decode.lean ====
section
/-! DEFINITION. Command words to commands and back (R70, R71, R73), register numbers to registers and
back with the access table of R21, and the expansion of written lines into inputs (R77, R78). -/

namespace Sys2Proof

/-- OP = CMD[3:0] (R70). -/
def opField (w : Byte) : BitVec 4 := w.extractLsb' 0 4

/-- ZERO = CMD[7:4] (R70). -/
def zeroField (w : Byte) : BitVec 4 := w.extractLsb' 4 4

/-- The command a word encodes (R71), or why it is reserved (R73). -/
def decodeCommand (w : Byte) : Except DecodeError Instr :=
  if zeroField w = 0 then
    match (opField w).toNat with
    | 1 => .ok .ckReset
    | 2 => .ok .ckAbsorb
    | 3 => .ok .ckFinalize
    | 4 => .ok .encode
    | 5 => .ok .decode
    | _ => .error (.reservedOp w)
  else .error (.zeroFieldSet w)

/-- The one word of each command, from R71's table. -/
def encodeCommand : Instr → Byte
  | .ckReset    => 0x01
  | .ckAbsorb   => 0x02
  | .ckFinalize => 0x03
  | .encode     => 0x04
  | .decode     => 0x05

/-- The mnemonic of R71. -/
def Instr.mnemonic : Instr → String
  | .ckReset    => "CK.RESET"
  | .ckAbsorb   => "CK.ABSORB"
  | .ckFinalize => "CK.FINALIZE"
  | .encode     => "ENCODE"
  | .decode     => "DECODE"

/-- The command word an opcode-table row of `nbits` bits with bits `w` stands for: every command is one
8-bit word (R70), and bits above `nbits` are 0. -/
def commandWord (nbits w : Nat) : Byte := BitVec.ofNat 8 (w % 2 ^ nbits)

/-- The instruction this decoder reads from a row of spec/opcode_table.json. -/
def decodeTableWord (nbits w : Nat) : Option Instr :=
  match decodeCommand (commandWord nbits w) with
  | .ok i    => some i
  | .error _ => none

/-- The register's number (R21). -/
def Reg.number : Reg → Nat
  | .cmd => 0x00 | .din => 0x01 | .status => 0x02 | .busy => 0x03 | .ckResult => 0x04
  | .txType => 0x05 | .txLen => 0x06 | .rxValid => 0x07 | .rxType => 0x08 | .rxLen => 0x09
  | .txPayload i => 0x100 + i.val
  | .rxPayload i => 0x200 + i.val

/-- The registers numbered below 0x100 (R21). -/
def Reg.scalar : Nat → Option Reg
  | 0x00 => some .cmd | 0x01 => some .din | 0x02 => some .status | 0x03 => some .busy
  | 0x04 => some .ckResult | 0x05 => some .txType | 0x06 => some .txLen | 0x07 => some .rxValid
  | 0x08 => some .rxType | 0x09 => some .rxLen
  | _ => none

/-- The register a number names, or none when R21 leaves the number unassigned. -/
def Reg.ofNumber (n : Nat) : Option Reg :=
  if h : 0x100 ≤ n ∧ n < 0x1FF then some (.txPayload ⟨n - 0x100, by omega⟩)
  else if h : 0x200 ≤ n ∧ n < 0x2FF then some (.rxPayload ⟨n - 0x200, by omega⟩)
  else Reg.scalar n

/-- Does R21's table give the host a write of the register? -/
def Reg.hostWritable : Reg → Bool
  | .cmd | .din | .txType | .txLen | .txPayload _ => true
  | .status | .busy | .ckResult | .rxValid | .rxType | .rxLen | .rxPayload _ => false

/-- Does R21's table give the host a read of the register? -/
def Reg.hostReadable : Reg → Bool
  | .cmd | .din => false
  | .status | .busy | .ckResult | .txType | .txLen | .txPayload _ => true
  | .rxValid | .rxType | .rxLen | .rxPayload _ => true

/-- Is a host access of the register refused while BUSY = 1? CMD, DIN, TX_* and RX_* are (R189, R214);
STATUS, BUSY and CK_RESULT are not. -/
def Reg.heldWhileBusy : Reg → Bool
  | .status | .busy | .ckResult => false
  | .cmd | .din | .txType | .txLen | .txPayload _ => true
  | .rxValid | .rxType | .rxLen | .rxPayload _ => true

/-- The register's width in bits (R21). -/
def Reg.width : Reg → Nat
  | .cmd | .din | .ckResult | .txType | .rxType | .rxLen | .txPayload _ | .rxPayload _ => 8
  | .status => 3
  | .busy | .rxValid => 1
  | .txLen => Config.lenW

/-- Does the value fit the register? -/
def Reg.fits (r : Reg) (v : LenWord) : Bool := decide (v.toNat < 2 ^ r.width)

/-- A host write of a register by name. -/
def setReg (r : Reg) (v : LenWord) : Input := .hostWrite r.number v

/-- A host write of one byte to a register by name. -/
def setByte (r : Reg) (b : Byte) : Input := setReg r (b.setWidth Config.lenW)

/-- The host write of CMD that issues a command (R70, R77). -/
def issueInput (i : Instr) : Input := setByte .cmd (encodeCommand i)

/-- `SET DIN, b` then CK.ABSORB (R78). -/
def absorbInputs (b : Byte) : List Input := [setByte .din b, issueInput .ckAbsorb]

/-- `SET TX_PAYLOAD[i], p` for the listed bytes, from index `start` on (R78). -/
def payloadInputs : Nat → List Byte → List Input
  | _, [] => []
  | start, p :: ps => .hostWrite (0x100 + start) (p.setWidth Config.lenW) :: payloadInputs (start + 1) ps

/-- The inputs a written line stands for (R77, R78). `SEND` of more than 255 bytes cannot be
expanded (R78). -/
def AsmLine.expand : AsmLine → Option (List Input)
  | .set r v   => some [setReg r v]
  | .get r     => some [.hostRead r.number]
  | .command i => some [issueInput i]
  | .absorb b  => some (absorbInputs b)
  | .sum bs    => some (issueInput .ckReset :: bs.flatMap absorbInputs)
  | .send t ps =>
    if ps.length ≤ Config.maxPayload then
      some ([setByte .txType t, setReg .txLen (BitVec.ofNat Config.lenW ps.length)]
        ++ payloadInputs 0 ps ++ [issueInput .encode])
    else none

end Sys2Proof
end

