-- ==== Sys2Proof/Machine/State.lean ====
section
/-! DEFINITION. Every piece of state the spec gives the block (10_state.md), the transport state the model
carries for it (R36), the reasons a run stops (R189), and the state after reset (R40, R210). -/

namespace Sys2Proof.Machine

/-- The status codes of R74 that are ever written (codes 5 to 7 never are, K1.9). -/
inductive Status where
  | ok | payloadTooLarge | framingError | checksumMismatch | transportError
deriving DecidableEq, Repr

/-- The decoder's states in R75's order (codes 10 to 15 are never entered, K1.10). -/
inductive DState where
  | idle | awaitStart | readType | readLen | readPayload | readChecksum
  | verify | awaitDleEnd | awaitEtx | done
deriving DecidableEq, Repr

/-- A byte buffer of R50: its bytes that hold a value, as (index, byte) pairs with strictly rising
indexes. An unlisted index holds no value (R22, R40); what reads and writes do is in Ops.lean. -/
structure Memory where
  cells : List Host.Cell
deriving DecidableEq, Repr

/-- Which registers hold a value: R22's "until the first write that gives it a value", one mark
for each scalar register that can be read while R40 calls it unspecified. RX_TYPE, RX_LEN and
RX_PAYLOAD need none: RX_VALID says when they hold a value (R31). -/
structure Written where
  din      : Bool
  status   : Bool
  ckResult : Bool
  txType   : Bool
  txLen    : Bool
deriving DecidableEq, Repr

/-- The state of the block, of the transport as far as commands see it, and of the host's script. -/
structure State where
  /-- CMD (R25). -/
  cmd : Byte
  /-- DIN (R25). -/
  din : Byte
  /-- STATUS (R26). -/
  status : Status
  /-- BUSY (R27). -/
  busy : Bool
  /-- CK_RESULT (R24). -/
  ckResult : Byte
  /-- TX_TYPE (R28). -/
  txType : Byte
  /-- TX_LEN (R29). -/
  txLen : LenWord
  /-- TX_PAYLOAD (R30). -/
  txPayload : Memory
  /-- RX_VALID (R31). -/
  rxValid : Bool
  /-- RX_TYPE (R32). -/
  rxType : Byte
  /-- RX_LEN (R32). -/
  rxLen : Byte
  /-- RX_PAYLOAD (R33). -/
  rxPayload : Memory
  /-- Which registers hold a value (R22). -/
  written : Written
  /-- ACC (R23). -/
  acc : Byte
  /-- DSTATE (R34, R75). -/
  dstate : DState
  /-- ESC (R34). -/
  esc : Bool
  /-- DACC (R34). -/
  dacc : Byte
  /-- DIDX (R34). -/
  didx : Byte
  /-- EACC (R35). -/
  eacc : Byte
  /-- FRAME_BUF (R35). -/
  frameBuf : Memory
  /-- FRAME_LEN, 10 bits (R35). -/
  frameLen : BitVec 10
  /-- RX_STREAM, the answers to future reads in order (R36, R52). -/
  rxStream : List RxItem
  /-- TX_LOG, the bytes on the wire in order (R36, R53). -/
  txLog : List Byte
  /-- The answers to future writes in order, a free input (R53). -/
  txAnswers : List TxItem
  /-- The request most recently handed to the transport (R52). -/
  rxRequest : Option ReadRequest
  /-- MODEL: how many write answers were drawn from `Config.freeTxAnswer`. -/
  draws : Nat
  /-- MODEL: what the outside world does next, in order (R9, R58). -/
  inputs : List Input
  /-- MODEL: what host reads returned, in order: register number and value. -/
  hostReads : List (Nat × LenWord)
deriving DecidableEq, Repr

/-- Why the model has no value to go on with. -/
inductive Fault where
  /-- A read of the register with this number, which holds no value (R22, R31, R33, R189). Raised by
  host reads, CK.ABSORB and ENCODE. Safe: the spec names the fault. -/
  | unspecifiedRead (num : Nat)
  /-- `TxWrite` would read a byte of FRAME_BUF that holds no value (R22, R35). Raised by ENCODE's
  write; no reachable state does. Safe. -/
  | unspecifiedFrameByte (i : Nat)
deriving DecidableEq, Repr

/-- Why the model gives an input no meaning; no state changes and no STATUS is written (R189). -/
inductive Refusal where
  /-- An instruction without a meaning. No arm of `exec` raises it. Safe. -/
  | notModelled (mnemonic : String)
  /-- A reserved word was written to CMD (R73). Raised by a host write. Safe. -/
  | reservedCommand (w : Byte)
  /-- The register number is unassigned (R21). Raised by host accesses. Safe. -/
  | unassignedRegister (num : Nat)
  /-- A write of a register R21 gives no write (R21, K1.8). Raised by host writes. Safe. -/
  | readOnlyRegister (num : Nat)
  /-- A read of CMD or DIN (R21, R25). Raised by host reads. Safe. -/
  | writeOnlyRegister (num : Nat)
  /-- An access of CMD, DIN, TX_* or RX_* while BUSY = 1 (R189, R214). Raised by host accesses. Safe. -/
  | accessWhileBusy (num : Nat)
  /-- A command issued while BUSY = 1 (R106, R189, R214). Raised by every command. Safe. -/
  | commandWhileBusy
  /-- A value that does not fit the register it is written to (R79 gives such a write no meaning;
  log 6). Raised by host writes. Safe. -/
  | valueTooWide (num : Nat)
deriving DecidableEq, Repr

/-- The machine right after reset (R40, R210): ACC = 0, BUSY = 0, RX_VALID = 0, DSTATE = IDLE, and
no other register or buffer byte holds a value. The bits behind such a register (log 1) are seen by
no rule. The transport and the script are empty (log 3, log 4). -/
def State.reset : State where
  cmd := 0
  din := 0
  status := .ok
  busy := false
  ckResult := 0
  txType := 0
  txLen := 0
  txPayload := ⟨[]⟩
  rxValid := false
  rxType := 0
  rxLen := 0
  rxPayload := ⟨[]⟩
  written := ⟨false, false, false, false, false⟩
  acc := 0
  dstate := .idle
  esc := false
  dacc := 0
  didx := 0
  eacc := 0
  frameBuf := ⟨[]⟩
  frameLen := 0
  rxStream := []
  txLog := []
  txAnswers := []
  rxRequest := none
  draws := 0
  inputs := []
  hostReads := []

/-- The outcome of one step of this machine. -/
abbrev Result := Host.Outcome State Fault Refusal

end Sys2Proof.Machine
end

