-- ==== Sys2Proof/Machine/Ops.lean ====
section
/-! DEFINITION. The shared operations: byte arithmetic (R13, R100), the escape rule (R81), the byte buffers
(R50, R55), the start and the two ends of a command (R27, R185), and the two transport primitives
(R52, R53). -/

namespace Sys2Proof.Machine

/-! Byte arithmetic -/

/-- `a +₈ b`, the sum modulo 256; a carry is dropped (R13, R100). -/
def add8 (a b : Byte) : Byte := a + b

/-- `neg₈(a) = (0 − a) mod 256` (R13, R100). -/
def neg8 (a : Byte) : Byte := 0 - a

/-- `sum₈(s)`, 0 for the empty sequence (R13). -/
def sum8 : List Byte → Byte
  | []      => 0
  | b :: bs => add8 b (sum8 bs)

/-- The physical bytes of one logical byte: DLE is doubled, every other byte is sent once (R81). -/
def escapeByte (b : Byte) : List Byte :=
  if b = Config.dle then [Config.dle, Config.dle] else [b]

/-! Byte buffers -/

/-- The byte listed at an index, if any. -/
def cellAt : List Host.Cell → Nat → Option Byte
  | [], _ => none
  | (a, v) :: cells, i => if a = i then some v else cellAt cells i

/-- Put a byte at an index, keeping the indexes strictly rising. -/
def putCell : List Host.Cell → Nat → Byte → List Host.Cell
  | [], i, b => [(i, b)]
  | (a, v) :: cells, i, b =>
    if i < a then (i, b) :: (a, v) :: cells
    else if i = a then (i, b) :: cells
    else (a, v) :: putCell cells i b

/-- Are the indexes strictly rising, and all above `low` where one is given? -/
def cellsRising : Option Nat → List Host.Cell → Bool
  | _, [] => true
  | none, (a, _) :: cells => cellsRising (some a) cells
  | some low, (a, _) :: cells => decide (low < a) && cellsRising (some a) cells

/-- `BUF[i]`: the byte, or none where the buffer's byte holds no value (R13, R22). -/
def Memory.read (m : Memory) (i : Nat) : Option Byte := cellAt m.cells i

/-- `BUF[i] <- b` in a buffer of `size` bytes (R13). No rule forms an index outside the buffer
(R50); such a write would find no byte, and the index goes on holding no value (log 2). -/
def Memory.write (size : Nat) (m : Memory) (i : Nat) (b : Byte) : Memory :=
  if i < size then ⟨putCell m.cells i b⟩ else m

/-- The canonical form: strictly rising indexes below the buffer's size. An unlisted index reads as
no value, which no entry can equal. -/
def Memory.wf (size : Nat) (m : Memory) : Bool :=
  cellsRising none m.cells && m.cells.all (fun c => decide (c.1 < size))

/-- `[BUF[i], …, BUF[i + n − 1]]`, read in index order; the first byte that holds no value gives its
fault (R22, R30). -/
def Memory.readRange (m : Memory) (missing : Nat → Fault) : Nat → Nat → Except Fault (List Byte)
  | _, 0 => .ok []
  | i, n + 1 =>
    match m.read i with
    | none => .error (missing i)
    | some b =>
      match m.readRange missing (i + 1) n with
      | .error r => .error r
      | .ok bs   => .ok (b :: bs)

/-! The start and the ends of a command -/

/-- Issue a command: refused while another is running (R189, R214); else BUSY <- 1 (R27). -/
def issue (s : State) (body : State → Result) : Result :=
  if s.busy then .refused .commandWhileBusy else body { s with busy := true }

/-- Go on with an operand, or stop with its fault (R22). -/
def withOperand {α : Type} (operand : Except Fault α) (body : α → Result) : Result :=
  match operand with
  | .error r => .fault r
  | .ok v    => body v

/-- STATUS <- code; the register then holds a value (R22, R26). -/
def setStatus (code : Status) (s : State) : State :=
  { s with status := code, written := { s.written with status := true } }

/-- The normal end of a command: STATUS <- OK, BUSY <- 0 (R185 a). -/
def completeOk (s : State) : State := { setStatus .ok s with busy := false }

/-- TAKING AN ERROR, the block's only exceptional event: STATUS <- E, BUSY <- 0, DSTATE <- IDLE, and
nothing is saved (R185 b, R153). There is no return from it (R188). -/
def raiseError (code : Status) (s : State) : State :=
  { setStatus code s with busy := false, dstate := .idle }

/-! The transport -/

/-- The request every `RxRead` hands the transport (R52). -/
def readRequest : ReadRequest := ⟨Config.minBytes, Config.readTimeout⟩

/-- A read request was made and RX_STREAM is now `rest` (R52). -/
def requestRead (rest : List RxItem) (s : State) : State :=
  { s with rxStream := rest, rxRequest := some readRequest }

/-- RX_STREAM once the transport has woken: a withheld answer at its head is gone (R219). -/
def wakeRx : List RxItem → List RxItem
  | .withheld :: rest => rest
  | stream => stream

/-- The write answers once the transport has woken (R219). -/
def wakeTx : List TxItem → List TxItem
  | .withheld :: rest => rest
  | answers => answers

/-- What a `TxWrite` came to (R53, R219). -/
inductive WriteResult where
  | ok | failed | waiting
deriving DecidableEq, Repr

/-- The transport's next answer to a write: the first listed one, or a free one (R53, log 4). -/
def nextTxAnswer (s : State) : TxItem × State :=
  match s.txAnswers with
  | answer :: rest => (answer, { s with txAnswers := rest })
  | [] => (Config.freeTxAnswer s.draws, { s with draws := s.draws + 1 })

/-- `TxWrite(f)` (R53): Ok appends all of `f` to TX_LOG, Fail any leading part of it; an answer withheld
stays at the head of the answers, and the write waits. -/
def txWrite (f : List Byte) (s : State) : WriteResult × State :=
  match nextTxAnswer s with
  | (.ok, t)        => (.ok, { t with txLog := t.txLog ++ f })
  | (.fail sent, t) => (.failed, { t with txLog := t.txLog ++ f.take sent })
  | (.withheld, t)  => (.waiting, { t with txAnswers := .withheld :: t.txAnswers })

end Sys2Proof.Machine
end

