-- ==== Sys2Proof/Machine/Flags.lean ====
section
/-! DEFINITION. The codes software sees of the flag-like state (R38): STATUS (R74), BUSY and RX_VALID as one-bit
values, the codes of DSTATE (R75); and the zero test of VERIFY (R148), the block's only test of a
result. No command sets a carry, overflow or zero flag (R38). -/

namespace Sys2Proof.Machine

/-- STATUS[2:0] (R74). -/
def statusCode : Status → BitVec 3
  | .ok => 0 | .payloadTooLarge => 1 | .framingError => 2 | .checksumMismatch => 3
  | .transportError => 4

/-- DSTATE[3:0] (R75). -/
def dstateCode : DState → BitVec 4
  | .idle => 0 | .awaitStart => 1 | .readType => 2 | .readLen => 3 | .readPayload => 4
  | .readChecksum => 5 | .verify => 6 | .awaitDleEnd => 7 | .awaitEtx => 8 | .done => 9

/-- A one-bit register as the host reads it (R21). -/
def flagValue (b : Bool) : LenWord := if b then 1 else 0

/-- The checksum validator's test: the accumulator is exactly 0 (R148). -/
def sumIsZero (dacc : Byte) : Bool := decide (dacc = 0)

/-- A field state, where one logical byte is read through the unescaper (R141, R154). -/
def DState.isField : DState → Bool
  | .readType | .readLen | .readPayload | .readChecksum => true
  | .idle | .awaitStart | .verify | .awaitDleEnd | .awaitEtx | .done => false

end Sys2Proof.Machine
end

