-- ==== Sys2Proof/Machine/Operands.lean ====
section
/-! DEFINITION. Reading operands and results. A register that holds no value faults (R22); the result
registers of DECODE hold one only while RX_VALID = 1 (R31, R33). -/

namespace Sys2Proof.Machine

/-- A register with a mark: its value once written, else the fault of R22. -/
def readMarked {α : Type} (mark : Bool) (r : Reg) (v : α) : Except Fault α :=
  if mark then .ok v else .error (.unspecifiedRead r.number)

/-- DIN, CK.ABSORB's operand (R102). -/
def readDin (s : State) : Except Fault Byte := readMarked s.written.din .din s.din

/-- TX_TYPE (R28, R125). -/
def readTxType (s : State) : Except Fault Byte := readMarked s.written.txType .txType s.txType

/-- TX_LEN, unsigned (R29, R125). -/
def readTxLen (s : State) : Except Fault LenWord := readMarked s.written.txLen .txLen s.txLen

/-- The number of TX_PAYLOAD[i], in the fault of a byte that holds no value (R21, R30). -/
def missingTxByte (i : Nat) : Fault := .unspecifiedRead (0x100 + i)

/-- The number of RX_PAYLOAD[i], in the fault of a byte that holds no value (R21, R33). -/
def missingRxByte (i : Nat) : Fault := .unspecifiedRead (0x200 + i)

/-- `[TX_PAYLOAD[0], …, TX_PAYLOAD[n − 1]]`, in index order and nothing beyond (R30, R125). -/
def readTxPayload (n : Nat) (s : State) : Except Fault (List Byte) :=
  s.txPayload.readRange missingTxByte 0 n

/-- A byte of a buffer as a register value. -/
def readBufferByte (m : Memory) (missing : Nat → Fault) (i : Nat) : Except Fault LenWord :=
  match m.read i with
  | none   => .error (missing i)
  | some b => .ok (b.setWidth Config.lenW)

/-- What a host read of a register answers (R21), or the fault of a register that holds no value
(R22, R31, R33). CMD and DIN are refused before this is asked (R25); their bits are read by no
host access. -/
def readReg (r : Reg) (s : State) : Except Fault LenWord :=
  match r with
  | .cmd => .error (.unspecifiedRead Reg.cmd.number)
  | .din => .error (.unspecifiedRead Reg.din.number)
  | .status => readMarked s.written.status .status ((statusCode s.status).setWidth Config.lenW)
  | .busy => .ok (flagValue s.busy)
  | .ckResult => readMarked s.written.ckResult .ckResult (s.ckResult.setWidth Config.lenW)
  | .txType => readMarked s.written.txType .txType (s.txType.setWidth Config.lenW)
  | .txLen => readMarked s.written.txLen .txLen s.txLen
  | .rxValid => .ok (flagValue s.rxValid)
  | .rxType => readMarked s.rxValid .rxType (s.rxType.setWidth Config.lenW)
  | .rxLen => readMarked s.rxValid .rxLen (s.rxLen.setWidth Config.lenW)
  | .txPayload i => readBufferByte s.txPayload missingTxByte i.val
  | .rxPayload i =>
    if s.rxValid && decide (i.val < s.rxLen.toNat)
    then readBufferByte s.rxPayload missingRxByte i.val
    else .error (missingRxByte i.val)

/-- The packet a successful DECODE returned (R151): none while RX_VALID = 0 (R31). -/
def rxPacket (s : State) : Option Packet :=
  if s.rxValid then
    match s.rxPayload.readRange missingRxByte 0 s.rxLen.toNat with
    | .ok p    => some ⟨s.rxType, p⟩
    | .error _ => none
  else none

end Sys2Proof.Machine
end

