-- ==== Sys2Proof/Machine/Checksum.lean ====
section
/-! DEFINITION. The checksum accumulator's three commands (R101, R102, R103) and the packet checksum the codec
computes with the same operations (R105). -/

namespace Sys2Proof.Machine

/-- CK.RESET: ACC <- 0, STATUS <- OK (R101). -/
def execCkReset (s : State) : Result :=
  issue s fun s => .next (completeOk { s with acc := 0 })

/-- CK.ABSORB: ACC <- ACC +₈ DIN, STATUS <- OK; a DIN never written faults (R102). -/
def execCkAbsorb (s : State) : Result :=
  issue s fun s => withOperand (readDin s) fun b =>
    .next (completeOk { s with acc := add8 s.acc b })

/-- CK.FINALIZE: CK_RESULT <- neg₈(ACC), STATUS <- OK; ACC stays (R103). -/
def execCkFinalize (s : State) : Result :=
  issue s fun s =>
    .next (completeOk { s with ckResult := neg8 s.acc, written := { s.written with ckResult := true } })

/-- `cks(t, p) = neg₈(t +₈ n +₈ sum₈(p))`; the length byte counts (R105, C1). -/
def packetChecksum (t : Byte) (p : List Byte) : Byte :=
  neg8 (add8 (add8 t (BitVec.ofNat 8 p.length)) (sum8 p))

end Sys2Proof.Machine
end

