-- ==== Sys2Proof/Machine/Encoder.lean ====
section
/-! DEFINITION. The packet encoder (41_encode.md): the frame as a pure function (R80, R122), its building in FRAME_BUF
step by step (R122), its one write (R125, R127), and ENCODE. -/

namespace Sys2Proof.Machine

/-! The pure form -/

/-- The wire frame of a packet with at most 255 payload bytes (R80, R122). -/
def encodeFrame (t : Byte) (p : List Byte) : List Byte :=
  [Config.dle] ++ escapeByte t ++ escapeByte (BitVec.ofNat 8 p.length) ++ p.flatMap escapeByte
    ++ escapeByte (packetChecksum t p) ++ [Config.dle, Config.etx]

/-- D of R85: how many of the given values equal DLE. -/
def dleCount (bs : List Byte) : Nat := bs.countP (fun b => decide (b = Config.dle))

/-- `L(t, p) = 6 + n + D` (R85, R129). -/
def frameLength (t : Byte) (p : List Byte) : Nat :=
  6 + p.length + dleCount ([t, BitVec.ofNat 8 p.length] ++ p ++ [packetChecksum t p])

/-! The frame in FRAME_BUF -/

/-- `emit(x)`: FRAME_BUF[FRAME_LEN] <- x, FRAME_LEN <- FRAME_LEN + 1 (R122). -/
def emit (x : Byte) (s : State) : State :=
  { s with
    frameBuf := s.frameBuf.write Config.frameBufSize s.frameLen.toNat x
    frameLen := s.frameLen + 1 }

/-- `emitEsc(b)`: emit each physical byte of b (R122). -/
def emitEsc (b : Byte) (s : State) : State := (escapeByte b).foldl (fun s x => emit x s) s

/-- `EACC <- EACC +₈ b` (R107, R122). -/
def absorbE (b : Byte) (s : State) : State := { s with eacc := add8 s.eacc b }

/-- One checksummed field byte: escaped on the wire, absorbed once with its own value (R123). -/
def emitField (b : Byte) (s : State) : State := absorbE b (emitEsc b s)

/-- Steps 1 and 2: empty the frame, reset EACC, the start DLE (R122). -/
def beginFrame (s : State) : State := emit Config.dle { s with frameLen := 0, eacc := 0 }

/-- Steps 3 to 5: typeID, length byte, payload bytes in order (R122). -/
def emitFields (t : Byte) (p : List Byte) (s : State) : State :=
  p.foldl (fun s b => emitField b s) (emitField (BitVec.ofNat 8 p.length) (emitField t s))

/-- Steps 6 and 7: the checksum, escaped and not absorbed (R124), then the terminators, never
escaped (R82). -/
def endFrame (s : State) : State := emit Config.etx (emit Config.dle (emitEsc (neg8 s.eacc) s))

/-- `encodeFrame(t, p)` as the block runs it, in FRAME_BUF, FRAME_LEN and EACC (R122). -/
def buildFrame (t : Byte) (p : List Byte) (s : State) : State :=
  endFrame (emitFields t p (beginFrame s))

/-- `FRAME_BUF[0 … FRAME_LEN − 1]` (R122). -/
def frameBytes (s : State) : Except Fault (List Byte) :=
  s.frameBuf.readRange .unspecifiedFrameByte 0 s.frameLen.toNat

/-! The write and the command -/

/-- Hand the frame to the transport and end the command with its answer (R125, R127); while the
answer is withheld the command goes on waiting, with BUSY = 1 (R219). -/
def sendFrame (s : State) : Result :=
  withOperand (frameBytes s) fun f =>
    .next (match txWrite f s with
      | (.ok, t)      => completeOk t
      | (.failed, t)  => raiseError .transportError t
      | (.waiting, t) => t)

/-- ENCODE (R125): operands, the length check before any payload read or write (R121), the payload,
the frame, the write. -/
def execEncode (s : State) : Result :=
  issue s fun s =>
    withOperand (readTxType s) fun t =>
    withOperand (readTxLen s) fun n =>
      if n.toNat > Config.maxPayload then .next (raiseError .payloadTooLarge s)
      else withOperand (readTxPayload n.toNat s) fun p => sendFrame (buildFrame t p s)

end Sys2Proof.Machine
end

