-- ==== Sys2Proof/Machine/Decoder.lean ====
section
/-! DEFINITION. The packet decoder as the per-byte machine of R154, DECODE (R140), its going on after a wait (R219),
and its pure form (R159). -/

namespace Sys2Proof.Machine

/-- The start actions of R140, less BUSY <- 1, which issuing the command did. -/
def startDecode (s : State) : State :=
  { s with rxValid := false, dacc := 0, esc := false, didx := 0, dstate := .awaitStart }

/-- `deliver_F(v)` for the logical byte v of a field state (R154). -/
def deliver (v : Byte) (s : State) : State :=
  match s.dstate with
  | .readType => { s with rxType := v, dacc := add8 s.dacc v, dstate := .readLen }
  | .readLen =>
    { s with
      rxLen := v, dacc := add8 s.dacc v, didx := 0
      dstate := if v = 0 then .readChecksum else .readPayload }
  | .readPayload =>
    { s with
      rxPayload := s.rxPayload.write Config.maxPayload s.didx.toNat v
      dacc := add8 s.dacc v, didx := s.didx + 1
      dstate := if s.didx + 1 = s.rxLen then .readChecksum else .readPayload }
  | .readChecksum => { s with dacc := add8 s.dacc v, dstate := .verify }
  | .idle | .awaitStart | .verify | .awaitDleEnd | .awaitEtx | .done => s

/-- One physical byte in a field state: the unescaper. The second byte of a pair is discarded
whatever it is (R141, R154, R157). -/
def fieldByte (b : Byte) (s : State) : State :=
  if s.esc then deliver Config.dle { s with esc := false }
  else if b = Config.dle then { s with esc := true }
  else deliver b s

/-- A sentinel is expected: go on if it came, else FramingError (R143, R149, R150). -/
def expectByte (expected : Byte) (after : DState) (b : Byte) (s : State) : State :=
  if b = expected then { s with dstate := after } else raiseError .framingError s

/-- The rows of R154 that take an input byte. IDLE, VERIFY and DONE read nothing. -/
def byteStep (b : Byte) (s : State) : State :=
  match s.dstate with
  | .awaitStart  => expectByte Config.dle .readType b s
  | .readType | .readLen | .readPayload | .readChecksum => fieldByte b s
  | .awaitDleEnd => expectByte Config.dle .awaitEtx b s
  | .awaitEtx    => expectByte Config.etx .done b s
  | .idle | .verify | .done => s

/-- The internal rows of R154, which read nothing: VERIFY (R148) and DONE (R151). -/
def internalStep (s : State) : State :=
  match s.dstate with
  | .verify =>
    if sumIsZero s.dacc then { s with dstate := .awaitDleEnd } else raiseError .checksumMismatch s
  | .done => completeOk { s with rxValid := true, dstate := .idle }
  | .idle | .awaitStart | .readType | .readLen | .readPayload | .readChecksum
  | .awaitDleEnd | .awaitEtx => s

/-- One `RxRead` answered with a byte: its row, and the internal row that follows it, if any. R154
lets a model merge the two (D30, log 7). -/
def decodeByte (b : Byte) (s : State) : State := internalStep (byteStep b s)

/-- Run the machine over RX_STREAM until the command ends (DSTATE = IDLE) or an answer is withheld.
An empty stream answers Fail (R52); a Fail ends the command (R152). -/
def decodeRun : List RxItem → State → State
  | [], s => raiseError .transportError (requestRead [] s)
  | .fail :: rest, s => raiseError .transportError (requestRead rest s)
  | .withheld :: rest, s => requestRead (.withheld :: rest) s
  | .byte b :: rest, s =>
    let t := decodeByte b (requestRead rest s)
    if t.dstate = .idle then t else decodeRun rest t

/-- DECODE (R140): the start actions, then the machine of R154. -/
def execDecode (s : State) : Result :=
  issue s fun s => .next (decodeRun s.rxStream (startDecode s))

/-- A waiting DECODE goes on. An internal step still to be taken comes first (R154). -/
def resumeDecode (s : State) : State :=
  let t := internalStep s
  if t.dstate = .idle then t else decodeRun t.rxStream t

/-- `decodeFrame(bs)` (R159): DECODE on the bytes `bs` followed by Fail for ever. The status, the packet
if there is one, and how many bytes were consumed. -/
def decodeFrame (bs : List Byte) : Status × Option Packet × Nat :=
  let start := { State.reset with busy := true, rxStream := bs.map .byte }
  let t := decodeRun start.rxStream (startDecode start)
  (t.status, rxPacket t, bs.length - t.rxStream.length)

end Sys2Proof.Machine
end

