-- ==== Sys2Proof/Machine/Dispatch.lean ====
section
/-! DEFINITION. One arm per command of R71, each one call of its meaning. -/

namespace Sys2Proof.Machine

def exec (i : Instr) (s : State) : Host.Outcome State Fault Refusal :=
  match i with
  | .ckReset => Sys2Proof.Machine.execCkReset s
  | .ckAbsorb => Sys2Proof.Machine.execCkAbsorb s
  | .ckFinalize => Sys2Proof.Machine.execCkFinalize s
  | .encode => Sys2Proof.Machine.execEncode s
  | .decode => Sys2Proof.Machine.execDecode s

end Sys2Proof.Machine
end

