-- ==== Sys2Proof/Machine/HostPort.lean ====
section
/-! DEFINITION. What each input of the outside world does: host writes and reads (R21, R189, R214), issuing a command
(R70, R73), the transport's waking (R219), and hardware reset (R210, R211). -/

namespace Sys2Proof.Machine

/-- A host write of CMD: the command runs, a reserved word is refused (R70, R73). -/
def runCommand (w : Byte) (s : State) : Result :=
  match decodeCommand w with
  | .error _ => .refused (.reservedCommand w)
  | .ok i    => exec i { s with cmd := w }

/-- A host write that R21 admits. A value of a byte register is its low 8 bits; `hostWrite` has checked
that it has no others. -/
def writeReg (r : Reg) (v : LenWord) (s : State) : Result :=
  match r with
  | .cmd => runCommand (v.setWidth 8) s
  | .din => .next { s with din := v.setWidth 8, written := { s.written with din := true } }
  | .txType => .next { s with txType := v.setWidth 8, written := { s.written with txType := true } }
  | .txLen => .next { s with txLen := v, written := { s.written with txLen := true } }
  | .txPayload i =>
    .next { s with txPayload := s.txPayload.write Config.maxPayload i.val (v.setWidth 8) }
  | .status | .busy | .ckResult | .rxValid | .rxType | .rxLen | .rxPayload _ =>
    .refused (.readOnlyRegister r.number)

/-- A host write of a register number: refused where the number is unassigned or read-only (R21), while
BUSY = 1 (R214), or where the value does not fit (R79, log 6). -/
def hostWrite (num : Nat) (v : LenWord) (s : State) : Result :=
  match Reg.ofNumber num with
  | none => .refused (.unassignedRegister num)
  | some r =>
    if !r.hostWritable then .refused (.readOnlyRegister num)
    else if s.busy && r.heldWhileBusy then .refused (.accessWhileBusy num)
    else if !r.fits v then .refused (.valueTooWide num)
    else writeReg r v s

/-- A host read of a register number: refused where the number is unassigned or write-only (R21) or
while BUSY = 1 (R189); a register that holds no value faults (R22). The value joins `hostReads`. -/
def hostRead (num : Nat) (s : State) : Result :=
  match Reg.ofNumber num with
  | none => .refused (.unassignedRegister num)
  | some r =>
    if !r.hostReadable then .refused (.writeOnlyRegister num)
    else if s.busy && r.heldWhileBusy then .refused (.accessWhileBusy num)
    else withOperand (readReg r s) fun v => .next { s with hostReads := s.hostReads ++ [(num, v)] }

/-- Is an ENCODE waiting for its write? BUSY = 1 while no DECODE is in progress (R27, R37). -/
def encodeWaiting (s : State) : Bool := s.busy && decide (s.dstate = .idle)

/-- The transport answers what it withheld, and the command that waited goes on (R219). With no command
waiting nothing happens. -/
def transportWake (s : State) : Result :=
  if s.busy then
    if s.dstate = .idle then sendFrame { s with txAnswers := wakeTx s.txAnswers }
    else .next (resumeDecode { s with rxStream := wakeRx s.rxStream })
  else .next s

/-- What TX_LOG gains when a reset interrupts a `TxWrite`: any leading part of the frame (R211). -/
def interruptedBytes (sent : Nat) (s : State) : List Byte :=
  if encodeWaiting s then
    match frameBytes s with
    | .ok f    => f.take sent
    | .error _ => []
  else []

/-- Hardware reset (R210, R211): every piece of block state at R40's value, no STATUS written; the
transport keeps what it holds, and a write that was interrupted is over. -/
def hardReset (sent : Nat) (s : State) : State :=
  { State.reset with
    rxStream := s.rxStream
    txLog := s.txLog ++ interruptedBytes sent s
    txAnswers := if encodeWaiting s then wakeTx s.txAnswers else s.txAnswers
    rxRequest := s.rxRequest
    draws := s.draws
    inputs := s.inputs
    hostReads := s.hostReads }

/-- One input (R9). -/
def perform (a : Input) (s : State) : Result :=
  match a with
  | .hostWrite num v => hostWrite num v s
  | .hostRead num    => hostRead num s
  | .transportWake   => transportWake s
  | .hardReset sent  => .next (hardReset sent s)

/-- The input that makes the next step issue the command a row of the opcode table stands for. -/
def tableInput (nbits w : Nat) : Input :=
  .hostWrite Reg.cmd.number ((commandWord nbits w).setWidth Config.lenW)

end Sys2Proof.Machine
end

