-- ==== Sys2Proof/Machine/Step.lean ====
section
/-! DEFINITION. One step: the next input of the outside world, or, when there is none, waiting. -/

namespace Sys2Proof.Machine

/-- One step. The block runs no program (R37, R62): it takes the next input. With none, it is idle
(R210) or its command waits on the transport (R219), and nothing changes. -/
def step (s : State) : Host.Outcome State Fault Refusal :=
  match s.inputs with
  | []        => .next s
  | a :: rest => perform a { s with inputs := rest }

/-- `s` with the host about to write the command word of a row of the opcode table (log 3). -/
def State.withFetchWord (s : State) (nbits w : Nat) : State :=
  { s with inputs := tableInput nbits w :: s.inputs }

end Sys2Proof.Machine
end

