-- ==== Sys2Proof/Machine/DecodeAlgorithm.lean ====
section
/-! DEFINITION. The normative algorithm of R141 and R142, written as the spec's pseudocode runs: one read after
another, `raise` ending the command. It is the second form of the decoder beside the per-byte machine of
R154, which `exec` runs; R154 says the two are equivalent. It is read for streams in which no answer is
withheld: where the machine waits, `rxRead` answers as for a failure. -/

namespace Sys2Proof.Machine

/-- A piece of pseudocode: it goes on with a value and a state, or the command has ended in a state. -/
abbrev Algo (α : Type) := State → Except State (α × State)

/-- Run one piece, then the next with its value, unless the command has ended. -/
def Algo.andThen {α β : Type} (first : Algo α) (next : α → Algo β) : Algo β := fun s =>
  match first s with
  | .error t    => .error t
  | .ok (a, t)  => next a t

/-- A register update. -/
def Algo.update (f : State → State) : Algo Unit := fun s => .ok ((), f s)

/-- `raise E` (R13, R185). -/
def Algo.raise {α : Type} (code : Status) : Algo α := fun s => .error (raiseError code s)

/-- `a <- RxRead(); if a = Fail: raise TransportError` (R52, R142). -/
def Algo.rxRead : Algo Byte := fun s =>
  match s.rxStream with
  | .byte b :: rest => .ok (b, requestRead rest s)
  | .fail :: rest => .error (raiseError .transportError (requestRead rest s))
  | .withheld :: rest => .error (raiseError .transportError (requestRead rest s))
  | [] => .error (raiseError .transportError (requestRead [] s))

/-- `readLogical()` (R141): a DLE takes a second byte with it, which is discarded. -/
def Algo.readLogical : Algo Byte :=
  Algo.rxRead.andThen fun b =>
    if b = Config.dle then
      (Algo.update fun s => { s with esc := true }).andThen fun _ =>
      Algo.rxRead.andThen fun _ =>
      (Algo.update fun s => { s with esc := false }).andThen fun _ s => .ok (b, s)
    else fun s => .ok (b, s)

/-- `if byte(a) ≠ expected: raise FramingError` after an `RxRead` (R142). -/
def Algo.sentinel (expected : Byte) : Algo Unit :=
  Algo.rxRead.andThen fun b =>
    if b = expected then fun s => .ok ((), s) else Algo.raise .framingError

/-- `DACC <- DACC +₈ v` (R107, R142). -/
def absorbD (v : Byte) (s : State) : State := { s with dacc := add8 s.dacc v }

/-- READ_PAYLOAD's loop with `k` bytes to go; DIDX counts the bytes read (R142, R146). -/
def Algo.payloadLoop : Nat → Algo Unit
  | 0 => fun s => .ok ((), s)
  | k + 1 =>
    Algo.readLogical.andThen fun v =>
    (Algo.update fun s =>
      { absorbD v s with
        rxPayload := s.rxPayload.write Config.maxPayload s.didx.toNat v
        didx := s.didx + 1 }).andThen fun _ =>
    Algo.payloadLoop k

/-- `DSTATE <- d` (R142). -/
def Algo.enter (d : DState) : Algo Unit := Algo.update fun s => { s with dstate := d }

/-- READ_PAYLOAD, skipped when n = 0 (R142, R146). -/
def Algo.payload (n : Byte) : Algo Unit :=
  if n = 0 then fun s => .ok ((), s)
  else (Algo.enter .readPayload).andThen fun _ => Algo.payloadLoop n.toNat

/-- The algorithm of R142, from AWAIT_START to DONE. -/
def Algo.decode : Algo Unit :=
  (Algo.sentinel Config.dle).andThen fun _ =>
  (Algo.enter .readType).andThen fun _ =>
  Algo.readLogical.andThen fun t =>
  (Algo.update fun s => { absorbD t s with rxType := t }).andThen fun _ =>
  (Algo.enter .readLen).andThen fun _ =>
  Algo.readLogical.andThen fun n =>
  (Algo.update fun s => { absorbD n s with rxLen := n, didx := 0 }).andThen fun _ =>
  (Algo.payload n).andThen fun _ =>
  (Algo.enter .readChecksum).andThen fun _ =>
  Algo.readLogical.andThen fun c =>
  (Algo.update (absorbD c)).andThen fun _ =>
  (Algo.enter .verify).andThen fun _ s =>
    if s.dacc ≠ 0 then Algo.raise .checksumMismatch s
    else
      ((Algo.enter .awaitDleEnd).andThen fun _ =>
      (Algo.sentinel Config.dle).andThen fun _ =>
      (Algo.enter .awaitEtx).andThen fun _ =>
      (Algo.sentinel Config.etx).andThen fun _ =>
      (Algo.enter .done).andThen fun _ =>
      Algo.update fun s => completeOk { s with rxValid := true, dstate := .idle }) s

/-- The state in which the algorithm leaves the block, whether it completed or raised. -/
def decodeByAlgorithm (s : State) : State :=
  match Algo.decode (startDecode s) with
  | .ok (_, t) => t
  | .error t   => t

end Sys2Proof.Machine
end

