-- ==== Sys2Proof/Safety.lean ====
section
/-! DEFINITION. The terms the statements use: when a run goes on (R189), the invariant of the block between steps,
absorbing a sequence of bytes (R104), and the physical bytes of escaped fields (R81, R157). -/

namespace Sys2Proof.Machine

/-! When the block goes on -/

/-- Do the bytes 0 to n − 1 of a buffer hold values? -/
def Memory.holds (m : Memory) (n : Nat) : Bool := (List.range n).all fun i => (m.read i).isSome

/-- Do the operands a command reads hold values (R213)? ENCODE reads no payload when TX_LEN > 255
(R121). -/
def operandsHeld (i : Instr) (s : State) : Bool :=
  match i with
  | .ckReset | .ckFinalize | .decode => true
  | .ckAbsorb => s.written.din
  | .encode =>
    s.written.txType && s.written.txLen &&
      (decide (s.txLen.toNat > Config.maxPayload) || s.txPayload.holds s.txLen.toNat)

/-- Does a word written to CMD issue a command whose operands hold values? -/
def commandHeld (w : Byte) (s : State) : Bool :=
  match decodeCommand w with
  | .ok i    => operandsHeld i s
  | .error _ => false

/-- Does the register hold a value (R22, R31, R33)? -/
def valueHeld (r : Reg) (s : State) : Bool :=
  match r with
  | .cmd | .din => false
  | .status => s.written.status
  | .busy | .rxValid => true
  | .ckResult => s.written.ckResult
  | .txType => s.written.txType
  | .txLen => s.written.txLen
  | .rxType | .rxLen => s.rxValid
  | .txPayload i => (s.txPayload.read i.val).isSome
  | .rxPayload i =>
    s.rxValid && decide (i.val < s.rxLen.toNat) && (s.rxPayload.read i.val).isSome

/-- Is the input none of the events of R189 that stop a run: an unassigned number, a wrong direction, an
access held back while BUSY = 1, a reserved word, a value too wide (log 6), a read of a register
that holds no value? -/
def admitted (a : Input) (s : State) : Bool :=
  match a with
  | .hostWrite num v =>
    match Reg.ofNumber num with
    | none => false
    | some r =>
      r.hostWritable && !s.busy && r.fits v && (decide (r ≠ .cmd) || commandHeld (v.setWidth 8) s)
  | .hostRead num =>
    match Reg.ofNumber num with
    | none => false
    | some r => r.hostReadable && !(s.busy && r.heldWhileBusy) && valueHeld r s
  | .transportWake => true
  | .hardReset _ => true

/-- A host read of the register number goes on, answers the value, and changes nothing but the record of host reads. -/
def readAnswers (num : Nat) (v : LenWord) (s : State) : Prop :=
  hostRead num s = .next { s with hostReads := s.hostReads ++ [(num, v)] }

/-! The invariant between steps -/

/-- What holds between any two steps of the block: the buffers are canonical and inside their
sizes (R50); no DECODE is in progress unless BUSY = 1 (R37), and the internal rows are never left
pending (R154); while a DECODE is in progress no packet is valid (R31), its counter is in range (R37)
and the payload bytes it has counted are stored (R146); a valid packet has all its bytes (R33); a
waiting ENCODE has its whole frame in FRAME_BUF (R122); and a command is in progress only because
the transport withholds the answer it waits for (R219). -/
structure State.Inv (s : State) : Prop where
  txPayload_wf : s.txPayload.wf Config.maxPayload = true
  rxPayload_wf : s.rxPayload.wf Config.maxPayload = true
  frameBuf_wf : s.frameBuf.wf Config.frameBufSize = true
  idle_between : s.busy = false → s.dstate = .idle
  not_verify : s.dstate ≠ .verify
  not_done : s.dstate ≠ .done
  no_packet_while_decoding : s.dstate ≠ .idle → s.rxValid = false
  packet_held : s.rxValid = true → s.rxPayload.holds s.rxLen.toNat = true
  counter_in_range : s.dstate = .readPayload → s.didx.toNat < s.rxLen.toNat
  counted_held : s.dstate = .readPayload → s.rxPayload.holds s.didx.toNat = true
  payload_held : s.dstate = .readChecksum ∨ s.dstate = .awaitDleEnd ∨ s.dstate = .awaitEtx →
    s.rxPayload.holds s.rxLen.toNat = true
  esc_in_field : s.dstate ≠ .idle → s.esc = true → s.dstate.isField = true
  frame_held : s.busy = true → s.dstate = .idle →
    6 ≤ s.frameLen.toNat ∧ s.frameLen.toNat ≤ Config.frameBufSize ∧
      s.frameBuf.holds s.frameLen.toNat = true
  read_waits : s.dstate ≠ .idle → s.rxStream.head? = some .withheld
  write_waits : s.busy = true → s.dstate = .idle → s.txAnswers.head? = some .withheld

/-! Sequences of steps, commands and bytes -/

/-- `k` steps, stopping at the first fault or refusal. -/
def runSteps : Nat → State → Result
  | 0, s => .next s
  | k + 1, s =>
    match step s with
    | .next t    => runSteps k t
    | .fault r   => .fault r
    | .refused r => .refused r

/-- CK.ABSORB each byte in turn, the host writing it to DIN before (R78, R102, R104). -/
def absorbBytes : List Byte → State → Result
  | [], s => .next s
  | b :: bs, s =>
    match exec .ckAbsorb { s with din := b, written := { s.written with din := true } } with
    | .next t    => absorbBytes bs t
    | .fault r   => .fault r
    | .refused r => .refused r

/-- The physical bytes the decoder reads as one logical byte: DLE with any second byte, or the byte
itself (R141, R157). -/
def pairBytes (f : Byte × Byte) : List Byte :=
  if f.1 = Config.dle then [Config.dle, f.2] else [f.1]

/-- The physical bytes of a run of logical bytes, each with the second byte its pair would have. -/
def wireBytes (fs : List (Byte × Byte)) : List Byte := fs.flatMap pairBytes

/-- A frame up to and including its checksum field: start DLE, typeID, length, payload, checksum, each
field with the second byte its pair would have (R80, R157). -/
def frameHead (t n : Byte × Byte) (p : List (Byte × Byte)) (c : Byte × Byte) : List Byte :=
  Config.dle :: wireBytes ([t, n] ++ p ++ [c])

/-- The sum the decoder tests: typeID, length, payload and checksum, each once (R105, R148). -/
def frameSum (t n : Byte × Byte) (p : List (Byte × Byte)) (c : Byte × Byte) : Byte :=
  sum8 (([t, n] ++ p ++ [c]).map Prod.fst)

/-- Is an answer withheld somewhere in the stream? -/
def neverWithheld (stream : List RxItem) : Prop := RxItem.withheld ∉ stream

end Sys2Proof.Machine
end

