-- ==== Sys2Proof/WellFormed.lean ====
section
/-! DEFINITION. What a well-formed command, host access and written line is: R70 and R72 for the command,
R21 for the access, R79 for the values, R78 for SEND. -/

namespace Sys2Proof

/-- A command has no operand in its word (R72), so each of the five is well formed. -/
def Instr.wf : Instr → Bool
  | .ckReset | .ckAbsorb | .ckFinalize | .encode | .decode => true

/-- A host write the block admits: the register admits writes (R21), the value fits it (R79), and a
word written to CMD is one of the five (R73). -/
def writeWf (r : Reg) (v : LenWord) : Bool :=
  r.hostWritable && r.fits v &&
    (decide (r ≠ .cmd) || (decodeCommand (v.setWidth 8)).isOk)

/-- An input the block admits when it is idle. -/
def Input.wf : Input → Bool
  | .hostWrite n v => match Reg.ofNumber n with
    | some r => writeWf r v
    | none   => false
  | .hostRead n => match Reg.ofNumber n with
    | some r => r.hostReadable
    | none   => false
  | .transportWake => true
  | .hardReset _ => true

/-- A written line that has an expansion the block admits (R77, R78, R79). -/
def AsmLine.wf : AsmLine → Bool
  | .set r v     => writeWf r v
  | .get r       => r.hostReadable
  | .command i   => i.wf
  | .absorb _    => true
  | .sum _       => true
  | .send _ ps   => decide (ps.length ≤ Config.maxPayload)

end Sys2Proof
end

