-- ==== Sys2Proof/Certificates/Slice0/Obligations.lean ====
section
/-! DEFINITION. The statements for the provers, in the order of OBLIGATIONS.json. Each docstring says which rule of
spec/ the statement formalises. -/

open Sys2Proof Sys2Proof.Machine

/-! Command words and register numbers -/

/-- R71: exactly five command words are defined, each one command. -/
def Obligations.CommandWordsAreExactlyFive : Prop :=
  ∀ (w : Byte) (i : Instr), decodeCommand w = .ok i ↔
    (w, i) ∈ [((0x01 : Byte), Instr.ckReset), (0x02, .ckAbsorb), (0x03, .ckFinalize),
      (0x04, .encode), (0x05, .decode)]

/-- Encoding and decoding a command agree, with the words written out from the encodings of the opcode
table (R70, R71). -/
def Obligations.TableWordsDecode : Prop :=
  (∀ i : Instr, i.wf = true → decodeCommand (encodeCommand i) = .ok i) ∧
  decodeTableWord 8 0b00000001 = some .ckReset ∧ decodeTableWord 8 0b00000010 = some .ckAbsorb ∧
  decodeTableWord 8 0b00000011 = some .ckFinalize ∧ decodeTableWord 8 0b00000100 = some .encode ∧
  decodeTableWord 8 0b00000101 = some .decode ∧ decodeTableWord 8 0b00010101 = none

/-- R73: every word but 0x01 to 0x05 written to CMD is refused, so no state changes and no status is
written. -/
def Obligations.ReservedWordsAreRefused : Prop :=
  ∀ (s : State) (w : Byte) (rest : List Input), s.busy = false →
    (w.toNat = 0 ∨ 6 ≤ w.toNat) →
    s.inputs = .hostWrite 0x00 (w.setWidth Config.lenW) :: rest →
    step s = .refused (.reservedCommand w)

/-- Every register has one number and every number at most one register (R21's table). -/
def Obligations.RegisterNumbersRoundTrip : Prop :=
  (∀ r : Reg, Reg.ofNumber r.number = some r) ∧
  (∀ (n : Nat) (r : Reg), Reg.ofNumber n = some r → r.number = n)

/-- The refusals of R21: unassigned numbers, reads of CMD and DIN, writes of the registers the host may only read.
R189 refuses them and orders nothing: that they are so named in every state and for every value, where
BUSY = 1 or a value too wide breaks another rule as well, is the model's reading (log 10). -/
def Obligations.HostAccessesOutsideTheTableRefused : Prop :=
  ∀ (s : State) (num : Nat) (v : LenWord),
    ((0x0A ≤ num ∧ num ≤ 0xFF) ∨ num = 0x1FF ∨ num = 0x2FF ∨ 0x2FF < num →
      hostWrite num v s = .refused (.unassignedRegister num) ∧
      hostRead num s = .refused (.unassignedRegister num)) ∧
    (num = 0x00 ∨ num = 0x01 → hostRead num s = .refused (.writeOnlyRegister num)) ∧
    (num ∈ [0x02, 0x03, 0x04, 0x07, 0x08, 0x09] ∨ (0x200 ≤ num ∧ num ≤ 0x2FE) →
      hostWrite num v s = .refused (.readOnlyRegister num))

/-! Steps -/

/-- Writing a command word runs its command (R25, R70): the step takes the input, CMD holds the word,
and the rest is `exec`. The word placed by `withFetchWord` is run by the very next step. -/
def Obligations.StepRunsDecodedCommand : Prop :=
  ∀ (s : State) (w : Byte) (i : Instr), s.busy = false → decodeCommand w = .ok i →
    (∀ rest, s.inputs = .hostWrite 0x00 (w.setWidth Config.lenW) :: rest →
      step s = exec i { s with inputs := rest, cmd := w }) ∧
    step (s.withFetchWord 8 w.toNat) = exec i { s with cmd := w }

/-- R219 (70_reset_and_hazards.md section 3): a DECODE whose first read is not answered waits with BUSY = 1,
however many steps pass without an input. That a read waits where the stream says `withheld` is the model's
choice (log 5). -/
def Obligations.UnansweredReadWaitsForever : Prop :=
  ∀ (s : State) (rest : List RxItem) (k : Nat), s.busy = false → s.inputs = [] →
    s.rxStream = .withheld :: rest →
    ∃ t, exec .decode s = .next t ∧ t.busy = true ∧ t.dstate = .awaitStart ∧
      t.rxStream = s.rxStream ∧ t.status = s.status ∧ runSteps k t = .next t

/-! The checksum accumulator -/

/-- R101: CK.RESET, its word, its result, and that nothing else changes. -/
def Obligations.CkResetResult : Prop :=
  decodeCommand 0x01 = .ok .ckReset ∧
  ∀ s : State, s.busy = false →
    exec .ckReset s = .next { s with
      acc := 0, status := .ok, written := { s.written with status := true }, busy := false }

/-- R102: CK.ABSORB, its word, its sum modulo 256, its fault when DIN was never written, and that
nothing else changes. -/
def Obligations.CkAbsorbResult : Prop :=
  decodeCommand 0x02 = .ok .ckAbsorb ∧
  ∀ s : State, s.busy = false →
    (s.written.din = true →
      exec .ckAbsorb s = .next { s with
        acc := BitVec.ofNat 8 ((s.acc.toNat + s.din.toNat) % 256)
        status := .ok, written := { s.written with status := true }, busy := false }) ∧
    (s.written.din = false → exec .ckAbsorb s = .fault (.unspecifiedRead 0x01))

/-- R103: CK.FINALIZE, its word, its negation modulo 256, ACC unchanged, and nothing else changed. -/
def Obligations.CkFinalizeResult : Prop :=
  decodeCommand 0x03 = .ok .ckFinalize ∧
  ∀ s : State, s.busy = false →
    exec .ckFinalize s = .next { s with
      ckResult := BitVec.ofNat 8 ((256 - s.acc.toNat) % 256)
      status := .ok, written := { s.written with ckResult := true, status := true }, busy := false }

/-- R100: the accumulator's arithmetic and its laws. -/
def Obligations.AccumulatorArithmetic : Prop :=
  (∀ a b : Byte, (add8 a b).toNat = (a.toNat + b.toNat) % 256) ∧
  (∀ a : Byte, (neg8 a).toNat = (256 - a.toNat) % 256) ∧
  (∀ a b : Byte, add8 a b = add8 b a) ∧
  (∀ a b c : Byte, add8 (add8 a b) c = add8 a (add8 b c)) ∧
  (∀ a : Byte, add8 a (neg8 a) = 0) ∧
  (∀ a : Byte, neg8 a = 0 ↔ a = 0) ∧ neg8 0x80 = 0x80

/-- R104: absorbing bytes adds their sum to ACC; after a pass from 0, absorbing the negated ACC in a
fresh pass brings ACC back to 0; and the order of the bytes does not matter. Each pass answers a
next state. -/
def Obligations.ChecksumClosure : Prop :=
  ∀ (s : State) (bs : List Byte), s.busy = false →
    (∃ t, absorbBytes bs s = .next t ∧ t.acc = add8 s.acc (sum8 bs) ∧
      (s.acc = 0 → ∃ u, absorbBytes (bs ++ [neg8 t.acc]) s = .next u ∧ u.acc = 0) ∧
      ∀ cs : List Byte, cs.Perm bs → ∃ u, absorbBytes cs s = .next u ∧ u.acc = t.acc)

/-- R106: the three accumulator commands raise no error; their only stops are an unwritten DIN and a
command running. -/
def Obligations.AccumulatorCommandsRaiseNoError : Prop :=
  ∀ (i : Instr) (s : State), i = .ckReset ∨ i = .ckAbsorb ∨ i = .ckFinalize →
    (∀ t, exec i s = .next t → t.status = .ok) ∧
    (∀ r, exec i s = .fault r →
      i = .ckAbsorb ∧ s.written.din = false ∧ r = .unspecifiedRead 0x01) ∧
    (∀ r, exec i s = .refused r → s.busy = true ∧ r = .commandWhileBusy)

/-! The encoder -/

/-- R122: the seven steps leave in FRAME_BUF exactly the frame of R80, of 6 to 517 bytes, in EACC the sum
of the checksummed bytes, and change no other register and no byte of FRAME_BUF beyond the frame. -/
def Obligations.BuiltFrameIsTheWireFrame : Prop :=
  ∀ (t : Byte) (p : List Byte) (s : State), p.length ≤ 255 →
    frameBytes (buildFrame t p s) = .ok (encodeFrame t p) ∧
    (buildFrame t p s).frameLen.toNat = (encodeFrame t p).length ∧
    6 ≤ (buildFrame t p s).frameLen.toNat ∧ (buildFrame t p s).frameLen.toNat ≤ 517 ∧
    (buildFrame t p s).eacc = add8 (add8 t (BitVec.ofNat 8 p.length)) (sum8 p) ∧
    buildFrame t p s = { s with
      eacc := (buildFrame t p s).eacc
      frameBuf := (buildFrame t p s).frameBuf
      frameLen := (buildFrame t p s).frameLen } ∧
    ∀ i, (encodeFrame t p).length ≤ i → (buildFrame t p s).frameBuf.read i = s.frameBuf.read i

/-- R85: the physical length is `6 + n + D`, D counting the values equal to 0x10. -/
def Obligations.FrameLengthFormula : Prop :=
  ∀ (t : Byte) (p : List Byte), p.length ≤ 255 →
    (encodeFrame t p).length =
      6 + p.length + ([t, BitVec.ofNat 8 p.length] ++ p ++ [packetChecksum t p]).count 0x10

/-- R11: a frame has 6 to 517 physical bytes, and both ends are reached. -/
def Obligations.FrameLengthBounds : Prop :=
  (∀ (t : Byte) (p : List Byte), p.length ≤ 255 →
    6 ≤ (encodeFrame t p).length ∧ (encodeFrame t p).length ≤ 517) ∧
  (∃ (t : Byte) (p : List Byte), p.length ≤ 255 ∧ (encodeFrame t p).length = 6) ∧
  (∃ (t : Byte) (p : List Byte), p.length ≤ 255 ∧ (encodeFrame t p).length = 517)

/-- ENCODE with its operands written and the write answered Ok (R125): the frame joins TX_LOG, STATUS is
OK, FRAME_BUF holds the frame from index 0 on, and nothing else changes. -/
def Obligations.EncodeSendsTheFrame : Prop :=
  ∀ (s : State) (p : List Byte) (rest : List TxItem), s.busy = false →
    s.written.txType = true → s.written.txLen = true → s.txLen.toNat ≤ 255 →
    p.length = s.txLen.toNat → (∀ i (h : i < p.length), s.txPayload.read i = some p[i]) →
    s.txAnswers = .ok :: rest →
    ∃ t, exec .encode s = .next t ∧
      t = { s with
        status := .ok, written := { s.written with status := true }, busy := false
        txLog := s.txLog ++ encodeFrame s.txType p, txAnswers := rest
        eacc := t.eacc, frameBuf := t.frameBuf, frameLen := t.frameLen } ∧
      frameBytes t = .ok (encodeFrame s.txType p) ∧
      ∀ i, (encodeFrame s.txType p).length ≤ i → t.frameBuf.read i = s.frameBuf.read i

/-- A write that fails after `sent` bytes leaves those on the wire, for every `sent`; STATUS is
TransportError, there is no second write, FRAME_BUF holds the frame from index 0 on, and nothing else
changes (R127, R53). DSTATE is IDLE after the error whatever it was before: R185 says so of every error,
where R128 says that ENCODE does not write DSTATE, and following R185 is the model's choice (log 13). -/
def Obligations.EncodeWriteFailure : Prop :=
  ∀ (s : State) (p : List Byte) (sent : Nat) (rest : List TxItem), s.busy = false →
    s.written.txType = true → s.written.txLen = true → s.txLen.toNat ≤ 255 →
    p.length = s.txLen.toNat → (∀ i (h : i < p.length), s.txPayload.read i = some p[i]) →
    s.txAnswers = .fail sent :: rest →
    ∃ t, exec .encode s = .next t ∧
      t = { s with
        status := .transportError, written := { s.written with status := true }, busy := false
        dstate := .idle
        txLog := s.txLog ++ (encodeFrame s.txType p).take sent, txAnswers := rest
        eacc := t.eacc, frameBuf := t.frameBuf, frameLen := t.frameLen } ∧
      frameBytes t = .ok (encodeFrame s.txType p) ∧
      ∀ i, (encodeFrame s.txType p).length ≤ i → t.frameBuf.read i = s.frameBuf.read i

/-- ENCODE with its operands written answers a next state whatever the transport does, listed or free
(R53, R187): it ends with OK and the whole frame sent, or with TransportError and a leading part sent,
or it waits with nothing sent. The answers listed and free are the model's (log 4), and so is where a write
waits (log 5). -/
def Obligations.EncodeOutcomes : Prop :=
  ∀ (s : State) (p : List Byte), s.busy = false →
    s.written.txType = true → s.written.txLen = true → s.txLen.toNat ≤ 255 →
    p.length = s.txLen.toNat → (∀ i (h : i < p.length), s.txPayload.read i = some p[i]) →
    ∃ t, exec .encode s = .next t ∧
      ((t.busy = false ∧ t.status = .ok ∧ t.txLog = s.txLog ++ encodeFrame s.txType p) ∨
       (t.busy = false ∧ t.status = .transportError ∧
        ∃ sent, t.txLog = s.txLog ++ (encodeFrame s.txType p).take sent) ∨
       (t.busy = true ∧ t.status = s.status ∧ t.txLog = s.txLog ∧
        t.txAnswers.head? = some .withheld))

/-- An ENCODE whose write is not answered waits with nothing sent, and once the transport wakes it goes on as if
the answer behind the wait had come at once, whatever it is (R219, 70_reset_and_hazards.md section 3): Ok
sends the frame, a failure sends a leading part of it, one more wait goes on waiting. Where a write waits is
the model's choice (log 5). Between commands DSTATE is IDLE (R37). -/
def Obligations.EncodeWaitsThenSends : Prop :=
  ∀ (s : State) (p : List Byte) (rest : List TxItem), s.busy = false → s.dstate = .idle →
    s.written.txType = true → s.written.txLen = true → s.txLen.toNat ≤ 255 →
    p.length = s.txLen.toNat → (∀ i (h : i < p.length), s.txPayload.read i = some p[i]) →
    s.txAnswers = .withheld :: rest →
    ∃ t, exec .encode s = .next t ∧ t.busy = true ∧ t.txLog = s.txLog ∧ t.status = s.status ∧
      transportWake t = exec .encode { s with txAnswers := rest } ∧
      (∀ later, rest = .ok :: later →
        ∃ u, transportWake t = .next u ∧ u.busy = false ∧ u.status = .ok ∧
          u.txLog = s.txLog ++ encodeFrame s.txType p ∧ u.txAnswers = later) ∧
      (∀ sent later, rest = .fail sent :: later →
        ∃ u, transportWake t = .next u ∧ u.busy = false ∧ u.status = .transportError ∧
          u.txLog = s.txLog ++ (encodeFrame s.txType p).take sent ∧ u.txAnswers = later) ∧
      (∀ later, rest = .withheld :: later →
        transportWake t = .next { t with txAnswers := rest })

/-- TX_LEN above 255 ends ENCODE with PayloadTooLarge before any payload byte is read, whatever TX_PAYLOAD
holds; TX_LOG and everything else stay (R121). DSTATE is IDLE after the error whatever it was before: R185
says so of every error, where R128 says that ENCODE does not write DSTATE, and following R185 is the
model's choice (log 13). -/
def Obligations.EncodeRejectsLongPayload : Prop :=
  ∀ s : State, s.busy = false → s.written.txType = true → s.written.txLen = true →
    255 < s.txLen.toNat →
    exec .encode s = .next { s with
      status := .payloadTooLarge, written := { s.written with status := true }, busy := false
      dstate := .idle }

/-- ENCODE reading an operand the host has not written since reset faults (R22, R30, R125, R213): TX_TYPE,
then TX_LEN, then the first payload byte below TX_LEN that holds no value. -/
def Obligations.EncodeFaultsOnUnwrittenOperand : Prop :=
  ∀ s : State, s.busy = false →
    (s.written.txType = false → exec .encode s = .fault (.unspecifiedRead 0x05)) ∧
    (s.written.txType = true → s.written.txLen = false →
      exec .encode s = .fault (.unspecifiedRead 0x06)) ∧
    (s.written.txType = true → s.written.txLen = true → s.txLen.toNat ≤ 255 →
      ∀ k, k < s.txLen.toNat → (∀ j, j < k → (s.txPayload.read j).isSome = true) →
        s.txPayload.read k = none → exec .encode s = .fault (.unspecifiedRead (0x100 + k)))

/-- Whatever its end, ENCODE changes only STATUS, BUSY, TX_LOG, EACC, FRAME_BUF and FRAME_LEN (and uses
up write answers, the transport's or the model's free ones); and it reads none of ACC, CK_RESULT, DIN,
RX_VALID, RX_TYPE, RX_LEN, RX_PAYLOAD, DSTATE and RX_STREAM: with others in their place it does the same and
leaves them (R128), save that an error makes DSTATE the IDLE it is between commands (R37): R185 says so of
every error, against R128, and following R185 is the model's choice (log 13). -/
def Obligations.EncodeTouchesOnlyItsOwn : Prop :=
  ∀ s t : State, s.dstate = .idle → exec .encode s = .next t →
    t = { s with
      status := t.status, written := { s.written with status := t.written.status }, busy := t.busy
      txLog := t.txLog, eacc := t.eacc, frameBuf := t.frameBuf, frameLen := t.frameLen
      txAnswers := t.txAnswers, draws := t.draws } ∧
    ∀ x : State, ∃ d : DState, (d = x.dstate ∨ d = .idle) ∧
      exec .encode { s with
        acc := x.acc, ckResult := x.ckResult, din := x.din, rxValid := x.rxValid, rxType := x.rxType
        rxLen := x.rxLen, rxPayload := x.rxPayload, dstate := x.dstate, rxStream := x.rxStream } =
      .next { t with
        acc := x.acc, ckResult := x.ckResult, din := x.din, rxValid := x.rxValid, rxType := x.rxType
        rxLen := x.rxLen, rxPayload := x.rxPayload, dstate := d, rxStream := x.rxStream }

/-! The decoder -/

/-- R160: decoding an encoded frame gives the packet back and consumes exactly the frame, for every
packet and every continuation. -/
def Obligations.FrameRoundTrip : Prop :=
  ∀ (t : Byte) (p rest : List Byte), p.length ≤ 255 →
    decodeFrame (encodeFrame t p ++ rest) = (.ok, some ⟨t, p⟩, frameLength t p)

/-- DECODE on a well-formed frame (R140, R142, R151): it ends OK with the packet in RX_TYPE, RX_LEN and
RX_PAYLOAD, RX_STREAM at the first unread answer, and nothing else changed. -/
def Obligations.DecodeReceivesTheFrame : Prop :=
  ∀ (s : State) (t : Byte) (p : List Byte) (rest : List RxItem), s.busy = false →
    p.length ≤ 255 → s.rxStream = (encodeFrame t p).map .byte ++ rest →
    ∃ u, exec .decode s = .next u ∧
      u = { s with
        status := .ok, written := { s.written with status := true }, busy := false
        rxValid := true, rxType := t, rxLen := BitVec.ofNat 8 p.length, rxPayload := u.rxPayload
        dstate := .idle, esc := false, dacc := 0, didx := BitVec.ofNat 8 p.length
        rxStream := rest, rxRequest := some ⟨1, Config.readTimeout⟩ } ∧
      (∀ i (h : i < p.length), u.rxPayload.read i = some p[i]) ∧
      (∀ i, p.length ≤ i → u.rxPayload.read i = s.rxPayload.read i) ∧
      rxPacket u = some ⟨t, p⟩

/-- R157: in a field state the second byte of an escape pair is consumed and ignored, whatever it is: the
run is that of the pair `10 10`. So a whole frame with any second bytes decodes to its logical bytes. -/
def Obligations.DecodeIgnoresSecondByteOfPairs : Prop :=
  (∀ (s : State) (x : Byte) (rest : List RxItem), s.dstate.isField = true → s.esc = false →
    decodeRun (.byte 0x10 :: .byte x :: rest) s = decodeRun (.byte 0x10 :: .byte 0x10 :: rest) s) ∧
  ∀ (s : State) (t n c : Byte × Byte) (ps : List (Byte × Byte)) (rest : List RxItem),
    s.busy = false → ps.length = n.1.toNat → frameSum t n ps c = 0 →
    s.rxStream = (frameHead t n ps c ++ [Config.dle, Config.etx]).map .byte ++ rest →
    ∃ u, exec .decode s = .next u ∧ u.status = .ok ∧ u.busy = false ∧
      rxPacket u = some ⟨t.1, ps.map Prod.fst⟩ ∧ u.rxStream = rest

/-- R148: VERIFY reads nothing and goes on exactly when DACC is 0. So a sum that is not 0 ends DECODE with
ChecksumMismatch whatever follows, and what follows the checksum field stays unread; with a sum of 0 DECODE
does not end so. -/
def Obligations.DecodeReportsChecksumMismatch : Prop :=
  (∀ s : State, s.dstate = .verify →
    (s.dacc = 0 → internalStep s = { s with dstate := .awaitDleEnd }) ∧
    (s.dacc ≠ 0 → internalStep s = { s with
      status := .checksumMismatch, written := { s.written with status := true }, busy := false
      dstate := .idle })) ∧
  ∀ (s : State) (t n c : Byte × Byte) (ps : List (Byte × Byte)) (rest : List RxItem),
    s.busy = false → ps.length = n.1.toNat →
    s.rxStream = (frameHead t n ps c).map .byte ++ rest →
    ∃ u, exec .decode s = .next u ∧
      (frameSum t n ps c ≠ 0 → u.status = .checksumMismatch ∧ u.busy = false ∧
        u.dstate = .idle ∧ u.rxValid = false ∧ u.rxStream = rest) ∧
      (frameSum t n ps c = 0 → u.busy = false → u.status ≠ .checksumMismatch)

/-- After a good checksum, what is not the end DLE, or not the ETX after it, ends DECODE with
FramingError once consumed, and a Fail or the end of the stream with TransportError (R149, R150, R152). -/
def Obligations.DecodeTerminatorErrors : Prop :=
  ∀ (s : State) (t n c : Byte × Byte) (ps : List (Byte × Byte)) (tail rest : List RxItem)
    (code : Status), s.busy = false → ps.length = n.1.toNat → frameSum t n ps c = 0 →
    s.rxStream = (frameHead t n ps c).map .byte ++ tail →
    ((∃ b, b ≠ 0x10 ∧ tail = .byte b :: rest ∧ code = .framingError) ∨
     (tail = .fail :: rest ∧ code = .transportError) ∨
     (tail = [] ∧ rest = [] ∧ code = .transportError) ∨
     (∃ b, b ≠ 0x03 ∧ tail = .byte 0x10 :: .byte b :: rest ∧ code = .framingError) ∨
     (tail = .byte 0x10 :: .fail :: rest ∧ code = .transportError) ∨
     (tail = [.byte 0x10] ∧ rest = [] ∧ code = .transportError)) →
    ∃ u, exec .decode s = .next u ∧ u.status = code ∧ u.busy = false ∧ u.dstate = .idle ∧
      u.rxValid = false ∧ u.rxStream = rest

/-- A first answer that is not the start DLE ends DECODE at once (R143, R152, R155): FramingError with
one byte consumed, or TransportError. -/
def Obligations.DecodeStartErrors : Prop :=
  ∀ (s : State) (rest : List RxItem) (code : Status), s.busy = false →
    ((∃ b, b ≠ 0x10 ∧ s.rxStream = .byte b :: rest ∧ code = .framingError) ∨
     (s.rxStream = .fail :: rest ∧ code = .transportError) ∨
     (s.rxStream = [] ∧ rest = [] ∧ code = .transportError)) →
    exec .decode s = .next { s with
      status := code, written := { s.written with status := true }, busy := false
      rxValid := false, dstate := .idle, esc := false, dacc := 0, didx := 0
      rxStream := rest, rxRequest := some ⟨1, Config.readTimeout⟩ }

/-- A strict leading part of a frame never decodes: every read past its end fails, all of it is consumed
(R152, R161; 93_implementation_defined.md K1.3). -/
def Obligations.TruncatedFrameIsTransportError : Prop :=
  ∀ (t : Byte) (p : List Byte) (k : Nat), p.length ≤ 255 → k < (encodeFrame t p).length →
    decodeFrame ((encodeFrame t p).take k) = (.transportError, none, k)

/-- Any other logical checksum byte, re-escaped, ends DECODE with ChecksumMismatch, and the terminators and
all that follows stay unread (R161). -/
def Obligations.CorruptedChecksumIsDetected : Prop :=
  ∀ (t : Byte) (p : List Byte) (c : Byte) (rest : List Byte), p.length ≤ 255 →
    c ≠ packetChecksum t p →
    let head := [Config.dle] ++ escapeByte t ++ escapeByte (BitVec.ofNat 8 p.length)
      ++ p.flatMap escapeByte ++ escapeByte c
    decodeFrame (head ++ [Config.dle, Config.etx] ++ rest) = (.checksumMismatch, none, head.length)

/-- R154: the per-byte machine and the algorithm of R141 and R142 leave the same state, every register
included, on every stream whose answers all come. -/
def Obligations.StepTableMatchesAlgorithm : Prop :=
  ∀ s : State, s.busy = false → neverWithheld s.rxStream →
    exec .decode s = .next (decodeByAlgorithm { s with busy := true })

/-- A DECODE that ends with a valid packet has read a whole frame: a start DLE, the fields with their
escape pairs, a sum of 0, and `10 03` (R142, R161). It accepts nothing else. -/
def Obligations.DecodeAcceptsOnlyFrames : Prop :=
  ∀ s u : State, exec .decode s = .next u → u.rxValid = true →
    ∃ (t n c : Byte × Byte) (ps : List (Byte × Byte)), ps.length = n.1.toNat ∧
      frameSum t n ps c = 0 ∧
      s.rxStream = (frameHead t n ps c ++ [Config.dle, Config.etx]).map .byte ++ u.rxStream ∧
      u.status = .ok ∧ rxPacket u = some ⟨t.1, ps.map Prod.fst⟩

/-- A DECODE whose answers all come ends: BUSY = 0, DSTATE = IDLE, one of its four statuses, never
PayloadTooLarge, and RX_VALID = 1 exactly when the status is OK (R140, R153, R185). -/
def Obligations.DecodeEndsWithOneStatus : Prop :=
  ∀ s : State, s.busy = false → neverWithheld s.rxStream →
    ∃ u, exec .decode s = .next u ∧ u.busy = false ∧ u.dstate = .idle ∧
      u.written.status = true ∧ u.status ≠ .payloadTooLarge ∧
      (u.rxValid = true ↔ u.status = .ok)

/-- DECODE removes from RX_STREAM exactly a leading run of answers, never a withheld one, and never reads
on after a Fail (R52, R152, R155). -/
def Obligations.DecodeConsumesALeadingRun : Prop :=
  ∀ s u : State, exec .decode s = .next u →
    ∃ used, s.rxStream = used ++ u.rxStream ∧ neverWithheld used ∧
      (∀ a, a ∈ used.dropLast → ∃ b, a = .byte b) ∧
      (used.getLast? = some .fail → u.busy = false ∧ u.status = .transportError)

/-- Whatever its end, DECODE changes only the decoder's registers, STATUS, BUSY and RX_STREAM: not ACC,
CK_RESULT, DIN, TX_*, EACC, FRAME_* or TX_LOG (R107, R23, R72). It stores to RX_PAYLOAD only below DIDX, which
counts the payload bytes it read (R34, R146), and each read asks for one byte (R52). -/
def Obligations.DecodeChangesOnlyItsOwn : Prop :=
  ∀ s u : State, exec .decode s = .next u →
    u = { s with
      status := u.status, written := { s.written with status := u.written.status }, busy := u.busy
      rxValid := u.rxValid, rxType := u.rxType, rxLen := u.rxLen, rxPayload := u.rxPayload
      dstate := u.dstate, esc := u.esc, dacc := u.dacc, didx := u.didx
      rxStream := u.rxStream, rxRequest := some ⟨1, Config.readTimeout⟩ } ∧
    ∀ i, u.didx.toNat ≤ i → u.rxPayload.read i = s.rxPayload.read i

/-- R158: what a DECODE does depends on RX_STREAM alone, on nothing an earlier command left. -/
def Obligations.DecodeDependsOnlyOnTheStream : Prop :=
  ∀ s1 s2 u1 u2 : State, s1.rxStream = s2.rxStream →
    exec .decode s1 = .next u1 → exec .decode s2 = .next u2 →
    u1.busy = u2.busy ∧ u1.dstate = u2.dstate ∧ u1.rxStream = u2.rxStream ∧
    u1.rxValid = u2.rxValid ∧ rxPacket u1 = rxPacket u2 ∧
    (u1.busy = false → u1.status = u2.status)

/-- A wait changes nothing: a DECODE that stops where an answer is withheld, and goes on once it comes,
ends as one that was answered at once (R58, R65; R219, 70_reset_and_hazards.md section 3). That a read waits
where the stream says `withheld` is the model's choice (log 5). -/
def Obligations.WaitingDecodeGoesOn : Prop :=
  ∀ (s t : State) (before after : List RxItem), s.busy = false → neverWithheld before →
    s.rxStream = before ++ .withheld :: after → exec .decode s = .next t → t.busy = true →
    transportWake t = exec .decode { s with rxStream := before ++ after }

/-! Host accesses, completion and reset -/

/-- What the host writes to a register it may read is read back, for TX_TYPE, TX_LEN and every
TX_PAYLOAD byte, and no other register reads differently (R21, R28, R29, R30, R55). -/
def Obligations.HostReadsBackWhatItWrote : Prop :=
  ∀ (s : State) (r : Reg) (v : LenWord), s.busy = false → r.hostWritable = true →
    r.hostReadable = true → r.fits v = true →
    ∃ t, hostWrite r.number v s = .next t ∧
      hostRead r.number t = .next { t with hostReads := t.hostReads ++ [(r.number, v)] } ∧
      (∀ r', r' ≠ r → readReg r' t = readReg r' s) ∧
      t = { s with
        txType := t.txType, txLen := t.txLen, txPayload := t.txPayload
        written := { s.written with txType := t.written.txType, txLen := t.written.txLen } }

/-- A host write of DIN gives DIN its value and changes nothing else (R25, R102). -/
def Obligations.HostWriteOfDin : Prop :=
  ∀ (s : State) (b : Byte), s.busy = false →
    hostWrite 0x01 (b.setWidth Config.lenW) s =
      .next { s with din := b, written := { s.written with din := true } }

/-- A host read answers the register's own value when it holds one, every readable register by its number
(R21, R24, R26 to R33, R74), and faults when it holds none (R22, R31, R33): an unwritten register, RX_* while
RX_VALID = 0, RX_PAYLOAD[i] for i ≥ RX_LEN. -/
def Obligations.UnspecifiedRegistersFault : Prop :=
  ∀ s : State, s.busy = false →
    (s.written.status = true → readAnswers 0x02 ((statusCode s.status).setWidth Config.lenW) s) ∧
    readAnswers 0x03 0 s ∧
    (s.written.ckResult = true → readAnswers 0x04 (s.ckResult.setWidth Config.lenW) s) ∧
    (s.written.txType = true → readAnswers 0x05 (s.txType.setWidth Config.lenW) s) ∧
    (s.written.txLen = true → readAnswers 0x06 s.txLen s) ∧
    readAnswers 0x07 (if s.rxValid then 1 else 0) s ∧
    (s.rxValid = true → readAnswers 0x08 (s.rxType.setWidth Config.lenW) s ∧
      readAnswers 0x09 (s.rxLen.setWidth Config.lenW) s) ∧
    (∀ i b, i < 255 → s.txPayload.read i = some b →
      readAnswers (0x100 + i) (b.setWidth Config.lenW) s) ∧
    (∀ i b, i < s.rxLen.toNat → i < 255 → s.rxValid = true → s.rxPayload.read i = some b →
      readAnswers (0x200 + i) (b.setWidth Config.lenW) s) ∧
    (s.written.status = false → hostRead 0x02 s = .fault (.unspecifiedRead 0x02)) ∧
    (s.written.ckResult = false → hostRead 0x04 s = .fault (.unspecifiedRead 0x04)) ∧
    (s.written.txType = false → hostRead 0x05 s = .fault (.unspecifiedRead 0x05)) ∧
    (s.written.txLen = false → hostRead 0x06 s = .fault (.unspecifiedRead 0x06)) ∧
    (s.rxValid = false → hostRead 0x08 s = .fault (.unspecifiedRead 0x08) ∧
      hostRead 0x09 s = .fault (.unspecifiedRead 0x09)) ∧
    (∀ i, i < 255 → s.txPayload.read i = none →
      hostRead (0x100 + i) s = .fault (.unspecifiedRead (0x100 + i))) ∧
    (∀ i, i < 255 → s.rxValid = false ∨ s.rxLen.toNat ≤ i ∨ s.rxPayload.read i = none →
      hostRead (0x200 + i) s = .fault (.unspecifiedRead (0x200 + i))) ∧
    ∀ r : Reg, r.hostReadable = true →
      ((∃ v, readAnswers r.number v s) ↔ valueHeld r s = true) ∧
      (valueHeld r s = false → hostRead r.number s = .fault (.unspecifiedRead r.number))

/-- While BUSY = 1 every command, every write of CMD, DIN and TX_*, and every read of RX_* (R214) and of TX_*
(R189) is refused; BUSY reads 1 (R27). That RX_VALID counts among RX_*, and that this refusal is named before
that of a value too wide or of a reserved word, is the model's reading (log 10). -/
def Obligations.AccessesWhileBusyRefused : Prop :=
  ∀ s : State, s.busy = true →
    (∀ i, exec i s = .refused .commandWhileBusy) ∧
    (∀ (r : Reg) (v : LenWord), r.hostWritable = true →
      hostWrite r.number v s = .refused (.accessWhileBusy r.number)) ∧
    (∀ r : Reg, r.hostReadable = true → r ≠ .status → r ≠ .busy → r ≠ .ckResult →
      hostRead r.number s = .refused (.accessWhileBusy r.number)) ∧
    hostRead 0x03 s = .next { s with hostReads := s.hostReads ++ [(0x03, 1)] }

/-- The events of R189 are the only stops, from every state that meets the invariant: an input goes on
exactly when it is admitted (log 6 names the one refusal the spec does not list). -/
def Obligations.StopsAreExactlyTheListedEvents : Prop :=
  ∀ (s : State) (a : Input), s.Inv →
    ((∃ t, perform a s = .next t) ↔ admitted a s = true)

/-- Every command that ends leaves a STATUS the host can read, the code of its end (R26, R74, R185): one that ends
when it is issued, and one that waited and ends when the transport wakes, where only a DECODE (DSTATE is not
IDLE) has framing and checksum errors. How a command waits is the model's choice (log 5). -/
def Obligations.EveryEndedCommandLeavesAStatus : Prop :=
  (∀ (i : Instr) (s t : State), exec i s = .next t → t.busy = false →
    t.written.status = true ∧
    readAnswers 0x02 ((statusCode t.status).setWidth Config.lenW) t ∧
    (t.status = .payloadTooLarge → i = .encode) ∧
    (t.status = .framingError ∨ t.status = .checksumMismatch → i = .decode)) ∧
  ∀ s t : State, s.busy = true → transportWake s = .next t → t.busy = false →
    t.written.status = true ∧
    readAnswers 0x02 ((statusCode t.status).setWidth Config.lenW) t ∧
    t.status ≠ .payloadTooLarge ∧
    (t.status = .framingError ∨ t.status = .checksumMismatch → s.dstate ≠ .idle)

/-- The numbers of STATUS and DSTATE (R74, R75). -/
def Obligations.StatusAndStateCodes : Prop :=
  [Status.ok, .payloadTooLarge, .framingError, .checksumMismatch, .transportError].map statusCode
    = [0, 1, 2, 3, 4] ∧
  [DState.idle, .awaitStart, .readType, .readLen, .readPayload, .readChecksum, .verify, .awaitDleEnd,
    .awaitEtx, .done].map dstateCode = [0, 1, 2, 3, 4, 5, 6, 7, 8, 9] ∧
  (∀ c : Status, (statusCode c).toNat < 5) ∧ (∀ d : DState, (dstateCode d).toNat < 10)

/-- The results change only by the inputs that the rules name: CK_RESULT by CK.FINALIZE (R24), ACC by CK.RESET and
CK.ABSORB (R23), RX_VALID by DECODE (R31), TX_LOG by ENCODE (R125). Where the transport wakes (log 5), RX_VALID
changes only under a waiting DECODE and TX_LOG only under a waiting ENCODE. Hardware reset resets (R210) and
adds to TX_LOG only under a waiting ENCODE (R211). -/
def Obligations.ResultsChangeOnlyByTheirCommands : Prop :=
  ∀ s t : State, step s = .next t →
    (t.ckResult ≠ s.ckResult →
      (∃ rest, s.inputs = .hostWrite 0x00 0x03 :: rest) ∨ ∃ q rest, s.inputs = .hardReset q :: rest) ∧
    (t.acc ≠ s.acc →
      (∃ rest, s.inputs = .hostWrite 0x00 0x01 :: rest) ∨
      (∃ rest, s.inputs = .hostWrite 0x00 0x02 :: rest) ∨ ∃ q rest, s.inputs = .hardReset q :: rest) ∧
    (t.rxValid ≠ s.rxValid →
      (∃ rest, s.inputs = .hostWrite 0x00 0x05 :: rest) ∨
      ((∃ rest, s.inputs = .transportWake :: rest) ∧ s.busy = true ∧ s.dstate ≠ .idle) ∨
      ∃ q rest, s.inputs = .hardReset q :: rest) ∧
    (t.txLog ≠ s.txLog →
      (∃ rest, s.inputs = .hostWrite 0x00 0x04 :: rest) ∨
      (((∃ rest, s.inputs = .transportWake :: rest) ∨ ∃ q rest, s.inputs = .hardReset q :: rest) ∧
        s.busy = true ∧ s.dstate = .idle))

/-- No step takes bytes back from the wire or puts answers back into RX_STREAM (R55): TX_LOG only grows at
its end, RX_STREAM only loses answers at its head. -/
def Obligations.TransportStreamsAreOneWay : Prop :=
  ∀ s t : State, step s = .next t → s.txLog <+: t.txLog ∧ t.rxStream <:+ s.rxStream

/-- The reset values that R40 gives, and that no other register or buffer byte holds a value. The bits of
the registers that hold none are the model's choice (log 1) and are not stated. -/
def Obligations.ResetState : Prop :=
  State.reset.acc = 0 ∧ State.reset.busy = false ∧ State.reset.rxValid = false ∧
  State.reset.dstate = .idle ∧
  (∀ r : Reg, valueHeld r State.reset = decide (r = .busy ∨ r = .rxValid)) ∧
  State.reset.written.din = false ∧
  (∀ i, State.reset.txPayload.read i = none ∧ State.reset.rxPayload.read i = none ∧
    State.reset.frameBuf.read i = none)

/-- Hardware reset, a command running or not, gives ACC, BUSY, RX_VALID and DSTATE their reset values, leaves
every other register and buffer byte without a value, and so writes no STATUS; the transport keeps its
contents and consumed answers stay consumed (R210), but of the frame of an interrupted `TxWrite` any leading
part may have been sent (R211). That the reset's input carries the length of that part is the model's
reading (log 12). -/
def Obligations.HardResetResult : Prop :=
  ∀ (s : State) (q : Nat) (rest : List Input), s.inputs = .hardReset q :: rest →
    ∃ t, step s = .next t ∧
      t.acc = 0 ∧ t.busy = false ∧ t.rxValid = false ∧ t.dstate = .idle ∧
      (∀ r : Reg, valueHeld r t = decide (r = .busy ∨ r = .rxValid)) ∧ t.written.din = false ∧
      (∀ i, t.txPayload.read i = none ∧ t.rxPayload.read i = none ∧ t.frameBuf.read i = none) ∧
      t.rxStream = s.rxStream ∧ t.inputs = rest ∧ t.hostReads = s.hostReads ∧
      (s.busy = false ∨ s.dstate ≠ .idle → t.txLog = s.txLog) ∧
      (∀ f, s.busy = true → s.dstate = .idle → frameBytes s = .ok f →
        t.txLog = s.txLog ++ f.take q)

/-- The invariant holds after reset. Its clauses on waiting and on VERIFY and DONE are the model's (logs 5, 7). -/
def Obligations.ResetKeepsInvariant : Prop := State.reset.Inv

/-- Every step keeps the invariant, from every state that meets it (R31, R33, R37, R50, R146; R219,
70_reset_and_hazards.md section 3). Two of its clauses rest on the model's choices: a command in progress waits
on a withheld answer (log 5), and DSTATE is never VERIFY or DONE between steps (log 7, which R154 allows). -/
def Obligations.StepKeepsInvariant : Prop :=
  ∀ s t : State, s.Inv → step s = .next t → t.Inv

/-- R78: the expansions of the pseudo-instructions; SEND of more than 255 bytes has none; and a
well-formed line expands to inputs that are well formed. -/
def Obligations.PseudoInstructionExpansions : Prop :=
  (∀ b, AsmLine.expand (.absorb b) = some [.hostWrite 0x01 (b.setWidth Config.lenW), .hostWrite 0x00 0x02]) ∧
  (∀ bs, AsmLine.expand (.sum bs) =
    some (.hostWrite 0x00 0x01 :: bs.flatMap fun b =>
      [.hostWrite 0x01 (b.setWidth Config.lenW), .hostWrite 0x00 0x02])) ∧
  (∀ t ps, ps.length ≤ 255 → ∃ mid, AsmLine.expand (.send t ps) =
      some ([.hostWrite 0x05 (t.setWidth Config.lenW), .hostWrite 0x06 (BitVec.ofNat 16 ps.length)]
        ++ mid ++ [.hostWrite 0x00 0x04]) ∧ mid.length = ps.length ∧
      ∀ i (h : i < ps.length), mid[i]? = some (.hostWrite (0x100 + i) (ps[i].setWidth Config.lenW))) ∧
  (∀ t ps, 255 < ps.length → AsmLine.expand (.send t ps) = none) ∧
  (∀ (l : AsmLine) (xs : List Input), l.wf = true → l.expand = some xs →
    ∀ x, x ∈ xs → x.wf = true)
end

