-- ==== Sys2Proof/Laws/State.lean ====
section
/-! SUPPORT. What each shared record update does to each field of State: one lemma per field, so that no proof
unfolds an update. -/

namespace Sys2Proof.Machine

/-! setStatus -/

@[simp] theorem setStatus_cmd (code : Status) (s : State) : (setStatus code s).cmd = s.cmd := rfl
@[simp] theorem setStatus_din (code : Status) (s : State) : (setStatus code s).din = s.din := rfl
@[simp] theorem setStatus_status (code : Status) (s : State) : (setStatus code s).status = code := rfl
@[simp] theorem setStatus_busy (code : Status) (s : State) : (setStatus code s).busy = s.busy := rfl
@[simp] theorem setStatus_ckResult (code : Status) (s : State) : (setStatus code s).ckResult = s.ckResult := rfl
@[simp] theorem setStatus_txType (code : Status) (s : State) : (setStatus code s).txType = s.txType := rfl
@[simp] theorem setStatus_txLen (code : Status) (s : State) : (setStatus code s).txLen = s.txLen := rfl
@[simp] theorem setStatus_txPayload (code : Status) (s : State) : (setStatus code s).txPayload = s.txPayload := rfl
@[simp] theorem setStatus_rxValid (code : Status) (s : State) : (setStatus code s).rxValid = s.rxValid := rfl
@[simp] theorem setStatus_rxType (code : Status) (s : State) : (setStatus code s).rxType = s.rxType := rfl
@[simp] theorem setStatus_rxLen (code : Status) (s : State) : (setStatus code s).rxLen = s.rxLen := rfl
@[simp] theorem setStatus_rxPayload (code : Status) (s : State) : (setStatus code s).rxPayload = s.rxPayload := rfl
@[simp] theorem setStatus_written (code : Status) (s : State) : (setStatus code s).written = { s.written with status := true } := rfl
@[simp] theorem setStatus_acc (code : Status) (s : State) : (setStatus code s).acc = s.acc := rfl
@[simp] theorem setStatus_dstate (code : Status) (s : State) : (setStatus code s).dstate = s.dstate := rfl
@[simp] theorem setStatus_esc (code : Status) (s : State) : (setStatus code s).esc = s.esc := rfl
@[simp] theorem setStatus_dacc (code : Status) (s : State) : (setStatus code s).dacc = s.dacc := rfl
@[simp] theorem setStatus_didx (code : Status) (s : State) : (setStatus code s).didx = s.didx := rfl
@[simp] theorem setStatus_eacc (code : Status) (s : State) : (setStatus code s).eacc = s.eacc := rfl
@[simp] theorem setStatus_frameBuf (code : Status) (s : State) : (setStatus code s).frameBuf = s.frameBuf := rfl
@[simp] theorem setStatus_frameLen (code : Status) (s : State) : (setStatus code s).frameLen = s.frameLen := rfl
@[simp] theorem setStatus_rxStream (code : Status) (s : State) : (setStatus code s).rxStream = s.rxStream := rfl
@[simp] theorem setStatus_txLog (code : Status) (s : State) : (setStatus code s).txLog = s.txLog := rfl
@[simp] theorem setStatus_txAnswers (code : Status) (s : State) : (setStatus code s).txAnswers = s.txAnswers := rfl
@[simp] theorem setStatus_rxRequest (code : Status) (s : State) : (setStatus code s).rxRequest = s.rxRequest := rfl
@[simp] theorem setStatus_draws (code : Status) (s : State) : (setStatus code s).draws = s.draws := rfl
@[simp] theorem setStatus_inputs (code : Status) (s : State) : (setStatus code s).inputs = s.inputs := rfl
@[simp] theorem setStatus_hostReads (code : Status) (s : State) : (setStatus code s).hostReads = s.hostReads := rfl

/-! completeOk -/

@[simp] theorem completeOk_cmd (s : State) : (completeOk s).cmd = s.cmd := rfl
@[simp] theorem completeOk_din (s : State) : (completeOk s).din = s.din := rfl
@[simp] theorem completeOk_status (s : State) : (completeOk s).status = .ok := rfl
@[simp] theorem completeOk_busy (s : State) : (completeOk s).busy = false := rfl
@[simp] theorem completeOk_ckResult (s : State) : (completeOk s).ckResult = s.ckResult := rfl
@[simp] theorem completeOk_txType (s : State) : (completeOk s).txType = s.txType := rfl
@[simp] theorem completeOk_txLen (s : State) : (completeOk s).txLen = s.txLen := rfl
@[simp] theorem completeOk_txPayload (s : State) : (completeOk s).txPayload = s.txPayload := rfl
@[simp] theorem completeOk_rxValid (s : State) : (completeOk s).rxValid = s.rxValid := rfl
@[simp] theorem completeOk_rxType (s : State) : (completeOk s).rxType = s.rxType := rfl
@[simp] theorem completeOk_rxLen (s : State) : (completeOk s).rxLen = s.rxLen := rfl
@[simp] theorem completeOk_rxPayload (s : State) : (completeOk s).rxPayload = s.rxPayload := rfl
@[simp] theorem completeOk_written (s : State) : (completeOk s).written = { s.written with status := true } := rfl
@[simp] theorem completeOk_acc (s : State) : (completeOk s).acc = s.acc := rfl
@[simp] theorem completeOk_dstate (s : State) : (completeOk s).dstate = s.dstate := rfl
@[simp] theorem completeOk_esc (s : State) : (completeOk s).esc = s.esc := rfl
@[simp] theorem completeOk_dacc (s : State) : (completeOk s).dacc = s.dacc := rfl
@[simp] theorem completeOk_didx (s : State) : (completeOk s).didx = s.didx := rfl
@[simp] theorem completeOk_eacc (s : State) : (completeOk s).eacc = s.eacc := rfl
@[simp] theorem completeOk_frameBuf (s : State) : (completeOk s).frameBuf = s.frameBuf := rfl
@[simp] theorem completeOk_frameLen (s : State) : (completeOk s).frameLen = s.frameLen := rfl
@[simp] theorem completeOk_rxStream (s : State) : (completeOk s).rxStream = s.rxStream := rfl
@[simp] theorem completeOk_txLog (s : State) : (completeOk s).txLog = s.txLog := rfl
@[simp] theorem completeOk_txAnswers (s : State) : (completeOk s).txAnswers = s.txAnswers := rfl
@[simp] theorem completeOk_rxRequest (s : State) : (completeOk s).rxRequest = s.rxRequest := rfl
@[simp] theorem completeOk_draws (s : State) : (completeOk s).draws = s.draws := rfl
@[simp] theorem completeOk_inputs (s : State) : (completeOk s).inputs = s.inputs := rfl
@[simp] theorem completeOk_hostReads (s : State) : (completeOk s).hostReads = s.hostReads := rfl

/-! raiseError -/

@[simp] theorem raiseError_cmd (code : Status) (s : State) : (raiseError code s).cmd = s.cmd := rfl
@[simp] theorem raiseError_din (code : Status) (s : State) : (raiseError code s).din = s.din := rfl
@[simp] theorem raiseError_status (code : Status) (s : State) : (raiseError code s).status = code := rfl
@[simp] theorem raiseError_busy (code : Status) (s : State) : (raiseError code s).busy = false := rfl
@[simp] theorem raiseError_ckResult (code : Status) (s : State) : (raiseError code s).ckResult = s.ckResult := rfl
@[simp] theorem raiseError_txType (code : Status) (s : State) : (raiseError code s).txType = s.txType := rfl
@[simp] theorem raiseError_txLen (code : Status) (s : State) : (raiseError code s).txLen = s.txLen := rfl
@[simp] theorem raiseError_txPayload (code : Status) (s : State) : (raiseError code s).txPayload = s.txPayload := rfl
@[simp] theorem raiseError_rxValid (code : Status) (s : State) : (raiseError code s).rxValid = s.rxValid := rfl
@[simp] theorem raiseError_rxType (code : Status) (s : State) : (raiseError code s).rxType = s.rxType := rfl
@[simp] theorem raiseError_rxLen (code : Status) (s : State) : (raiseError code s).rxLen = s.rxLen := rfl
@[simp] theorem raiseError_rxPayload (code : Status) (s : State) : (raiseError code s).rxPayload = s.rxPayload := rfl
@[simp] theorem raiseError_written (code : Status) (s : State) : (raiseError code s).written = { s.written with status := true } := rfl
@[simp] theorem raiseError_acc (code : Status) (s : State) : (raiseError code s).acc = s.acc := rfl
@[simp] theorem raiseError_dstate (code : Status) (s : State) : (raiseError code s).dstate = .idle := rfl
@[simp] theorem raiseError_esc (code : Status) (s : State) : (raiseError code s).esc = s.esc := rfl
@[simp] theorem raiseError_dacc (code : Status) (s : State) : (raiseError code s).dacc = s.dacc := rfl
@[simp] theorem raiseError_didx (code : Status) (s : State) : (raiseError code s).didx = s.didx := rfl
@[simp] theorem raiseError_eacc (code : Status) (s : State) : (raiseError code s).eacc = s.eacc := rfl
@[simp] theorem raiseError_frameBuf (code : Status) (s : State) : (raiseError code s).frameBuf = s.frameBuf := rfl
@[simp] theorem raiseError_frameLen (code : Status) (s : State) : (raiseError code s).frameLen = s.frameLen := rfl
@[simp] theorem raiseError_rxStream (code : Status) (s : State) : (raiseError code s).rxStream = s.rxStream := rfl
@[simp] theorem raiseError_txLog (code : Status) (s : State) : (raiseError code s).txLog = s.txLog := rfl
@[simp] theorem raiseError_txAnswers (code : Status) (s : State) : (raiseError code s).txAnswers = s.txAnswers := rfl
@[simp] theorem raiseError_rxRequest (code : Status) (s : State) : (raiseError code s).rxRequest = s.rxRequest := rfl
@[simp] theorem raiseError_draws (code : Status) (s : State) : (raiseError code s).draws = s.draws := rfl
@[simp] theorem raiseError_inputs (code : Status) (s : State) : (raiseError code s).inputs = s.inputs := rfl
@[simp] theorem raiseError_hostReads (code : Status) (s : State) : (raiseError code s).hostReads = s.hostReads := rfl

/-! requestRead -/

@[simp] theorem requestRead_cmd (rest : List RxItem) (s : State) : (requestRead rest s).cmd = s.cmd := rfl
@[simp] theorem requestRead_din (rest : List RxItem) (s : State) : (requestRead rest s).din = s.din := rfl
@[simp] theorem requestRead_status (rest : List RxItem) (s : State) : (requestRead rest s).status = s.status := rfl
@[simp] theorem requestRead_busy (rest : List RxItem) (s : State) : (requestRead rest s).busy = s.busy := rfl
@[simp] theorem requestRead_ckResult (rest : List RxItem) (s : State) : (requestRead rest s).ckResult = s.ckResult := rfl
@[simp] theorem requestRead_txType (rest : List RxItem) (s : State) : (requestRead rest s).txType = s.txType := rfl
@[simp] theorem requestRead_txLen (rest : List RxItem) (s : State) : (requestRead rest s).txLen = s.txLen := rfl
@[simp] theorem requestRead_txPayload (rest : List RxItem) (s : State) : (requestRead rest s).txPayload = s.txPayload := rfl
@[simp] theorem requestRead_rxValid (rest : List RxItem) (s : State) : (requestRead rest s).rxValid = s.rxValid := rfl
@[simp] theorem requestRead_rxType (rest : List RxItem) (s : State) : (requestRead rest s).rxType = s.rxType := rfl
@[simp] theorem requestRead_rxLen (rest : List RxItem) (s : State) : (requestRead rest s).rxLen = s.rxLen := rfl
@[simp] theorem requestRead_rxPayload (rest : List RxItem) (s : State) : (requestRead rest s).rxPayload = s.rxPayload := rfl
@[simp] theorem requestRead_written (rest : List RxItem) (s : State) : (requestRead rest s).written = s.written := rfl
@[simp] theorem requestRead_acc (rest : List RxItem) (s : State) : (requestRead rest s).acc = s.acc := rfl
@[simp] theorem requestRead_dstate (rest : List RxItem) (s : State) : (requestRead rest s).dstate = s.dstate := rfl
@[simp] theorem requestRead_esc (rest : List RxItem) (s : State) : (requestRead rest s).esc = s.esc := rfl
@[simp] theorem requestRead_dacc (rest : List RxItem) (s : State) : (requestRead rest s).dacc = s.dacc := rfl
@[simp] theorem requestRead_didx (rest : List RxItem) (s : State) : (requestRead rest s).didx = s.didx := rfl
@[simp] theorem requestRead_eacc (rest : List RxItem) (s : State) : (requestRead rest s).eacc = s.eacc := rfl
@[simp] theorem requestRead_frameBuf (rest : List RxItem) (s : State) : (requestRead rest s).frameBuf = s.frameBuf := rfl
@[simp] theorem requestRead_frameLen (rest : List RxItem) (s : State) : (requestRead rest s).frameLen = s.frameLen := rfl
@[simp] theorem requestRead_rxStream (rest : List RxItem) (s : State) : (requestRead rest s).rxStream = rest := rfl
@[simp] theorem requestRead_txLog (rest : List RxItem) (s : State) : (requestRead rest s).txLog = s.txLog := rfl
@[simp] theorem requestRead_txAnswers (rest : List RxItem) (s : State) : (requestRead rest s).txAnswers = s.txAnswers := rfl
@[simp] theorem requestRead_rxRequest (rest : List RxItem) (s : State) : (requestRead rest s).rxRequest = some readRequest := rfl
@[simp] theorem requestRead_draws (rest : List RxItem) (s : State) : (requestRead rest s).draws = s.draws := rfl
@[simp] theorem requestRead_inputs (rest : List RxItem) (s : State) : (requestRead rest s).inputs = s.inputs := rfl
@[simp] theorem requestRead_hostReads (rest : List RxItem) (s : State) : (requestRead rest s).hostReads = s.hostReads := rfl

/-! emit -/

@[simp] theorem emit_cmd (x : Byte) (s : State) : (emit x s).cmd = s.cmd := rfl
@[simp] theorem emit_din (x : Byte) (s : State) : (emit x s).din = s.din := rfl
@[simp] theorem emit_status (x : Byte) (s : State) : (emit x s).status = s.status := rfl
@[simp] theorem emit_busy (x : Byte) (s : State) : (emit x s).busy = s.busy := rfl
@[simp] theorem emit_ckResult (x : Byte) (s : State) : (emit x s).ckResult = s.ckResult := rfl
@[simp] theorem emit_txType (x : Byte) (s : State) : (emit x s).txType = s.txType := rfl
@[simp] theorem emit_txLen (x : Byte) (s : State) : (emit x s).txLen = s.txLen := rfl
@[simp] theorem emit_txPayload (x : Byte) (s : State) : (emit x s).txPayload = s.txPayload := rfl
@[simp] theorem emit_rxValid (x : Byte) (s : State) : (emit x s).rxValid = s.rxValid := rfl
@[simp] theorem emit_rxType (x : Byte) (s : State) : (emit x s).rxType = s.rxType := rfl
@[simp] theorem emit_rxLen (x : Byte) (s : State) : (emit x s).rxLen = s.rxLen := rfl
@[simp] theorem emit_rxPayload (x : Byte) (s : State) : (emit x s).rxPayload = s.rxPayload := rfl
@[simp] theorem emit_written (x : Byte) (s : State) : (emit x s).written = s.written := rfl
@[simp] theorem emit_acc (x : Byte) (s : State) : (emit x s).acc = s.acc := rfl
@[simp] theorem emit_dstate (x : Byte) (s : State) : (emit x s).dstate = s.dstate := rfl
@[simp] theorem emit_esc (x : Byte) (s : State) : (emit x s).esc = s.esc := rfl
@[simp] theorem emit_dacc (x : Byte) (s : State) : (emit x s).dacc = s.dacc := rfl
@[simp] theorem emit_didx (x : Byte) (s : State) : (emit x s).didx = s.didx := rfl
@[simp] theorem emit_eacc (x : Byte) (s : State) : (emit x s).eacc = s.eacc := rfl
@[simp] theorem emit_frameBuf (x : Byte) (s : State) : (emit x s).frameBuf = s.frameBuf.write Config.frameBufSize s.frameLen.toNat x := rfl
@[simp] theorem emit_frameLen (x : Byte) (s : State) : (emit x s).frameLen = s.frameLen + 1 := rfl
@[simp] theorem emit_rxStream (x : Byte) (s : State) : (emit x s).rxStream = s.rxStream := rfl
@[simp] theorem emit_txLog (x : Byte) (s : State) : (emit x s).txLog = s.txLog := rfl
@[simp] theorem emit_txAnswers (x : Byte) (s : State) : (emit x s).txAnswers = s.txAnswers := rfl
@[simp] theorem emit_rxRequest (x : Byte) (s : State) : (emit x s).rxRequest = s.rxRequest := rfl
@[simp] theorem emit_draws (x : Byte) (s : State) : (emit x s).draws = s.draws := rfl
@[simp] theorem emit_inputs (x : Byte) (s : State) : (emit x s).inputs = s.inputs := rfl
@[simp] theorem emit_hostReads (x : Byte) (s : State) : (emit x s).hostReads = s.hostReads := rfl

/-! absorbE -/

@[simp] theorem absorbE_cmd (b : Byte) (s : State) : (absorbE b s).cmd = s.cmd := rfl
@[simp] theorem absorbE_din (b : Byte) (s : State) : (absorbE b s).din = s.din := rfl
@[simp] theorem absorbE_status (b : Byte) (s : State) : (absorbE b s).status = s.status := rfl
@[simp] theorem absorbE_busy (b : Byte) (s : State) : (absorbE b s).busy = s.busy := rfl
@[simp] theorem absorbE_ckResult (b : Byte) (s : State) : (absorbE b s).ckResult = s.ckResult := rfl
@[simp] theorem absorbE_txType (b : Byte) (s : State) : (absorbE b s).txType = s.txType := rfl
@[simp] theorem absorbE_txLen (b : Byte) (s : State) : (absorbE b s).txLen = s.txLen := rfl
@[simp] theorem absorbE_txPayload (b : Byte) (s : State) : (absorbE b s).txPayload = s.txPayload := rfl
@[simp] theorem absorbE_rxValid (b : Byte) (s : State) : (absorbE b s).rxValid = s.rxValid := rfl
@[simp] theorem absorbE_rxType (b : Byte) (s : State) : (absorbE b s).rxType = s.rxType := rfl
@[simp] theorem absorbE_rxLen (b : Byte) (s : State) : (absorbE b s).rxLen = s.rxLen := rfl
@[simp] theorem absorbE_rxPayload (b : Byte) (s : State) : (absorbE b s).rxPayload = s.rxPayload := rfl
@[simp] theorem absorbE_written (b : Byte) (s : State) : (absorbE b s).written = s.written := rfl
@[simp] theorem absorbE_acc (b : Byte) (s : State) : (absorbE b s).acc = s.acc := rfl
@[simp] theorem absorbE_dstate (b : Byte) (s : State) : (absorbE b s).dstate = s.dstate := rfl
@[simp] theorem absorbE_esc (b : Byte) (s : State) : (absorbE b s).esc = s.esc := rfl
@[simp] theorem absorbE_dacc (b : Byte) (s : State) : (absorbE b s).dacc = s.dacc := rfl
@[simp] theorem absorbE_didx (b : Byte) (s : State) : (absorbE b s).didx = s.didx := rfl
@[simp] theorem absorbE_eacc (b : Byte) (s : State) : (absorbE b s).eacc = add8 s.eacc b := rfl
@[simp] theorem absorbE_frameBuf (b : Byte) (s : State) : (absorbE b s).frameBuf = s.frameBuf := rfl
@[simp] theorem absorbE_frameLen (b : Byte) (s : State) : (absorbE b s).frameLen = s.frameLen := rfl
@[simp] theorem absorbE_rxStream (b : Byte) (s : State) : (absorbE b s).rxStream = s.rxStream := rfl
@[simp] theorem absorbE_txLog (b : Byte) (s : State) : (absorbE b s).txLog = s.txLog := rfl
@[simp] theorem absorbE_txAnswers (b : Byte) (s : State) : (absorbE b s).txAnswers = s.txAnswers := rfl
@[simp] theorem absorbE_rxRequest (b : Byte) (s : State) : (absorbE b s).rxRequest = s.rxRequest := rfl
@[simp] theorem absorbE_draws (b : Byte) (s : State) : (absorbE b s).draws = s.draws := rfl
@[simp] theorem absorbE_inputs (b : Byte) (s : State) : (absorbE b s).inputs = s.inputs := rfl
@[simp] theorem absorbE_hostReads (b : Byte) (s : State) : (absorbE b s).hostReads = s.hostReads := rfl

/-! startDecode -/

@[simp] theorem startDecode_cmd (s : State) : (startDecode s).cmd = s.cmd := rfl
@[simp] theorem startDecode_din (s : State) : (startDecode s).din = s.din := rfl
@[simp] theorem startDecode_status (s : State) : (startDecode s).status = s.status := rfl
@[simp] theorem startDecode_busy (s : State) : (startDecode s).busy = s.busy := rfl
@[simp] theorem startDecode_ckResult (s : State) : (startDecode s).ckResult = s.ckResult := rfl
@[simp] theorem startDecode_txType (s : State) : (startDecode s).txType = s.txType := rfl
@[simp] theorem startDecode_txLen (s : State) : (startDecode s).txLen = s.txLen := rfl
@[simp] theorem startDecode_txPayload (s : State) : (startDecode s).txPayload = s.txPayload := rfl
@[simp] theorem startDecode_rxValid (s : State) : (startDecode s).rxValid = false := rfl
@[simp] theorem startDecode_rxType (s : State) : (startDecode s).rxType = s.rxType := rfl
@[simp] theorem startDecode_rxLen (s : State) : (startDecode s).rxLen = s.rxLen := rfl
@[simp] theorem startDecode_rxPayload (s : State) : (startDecode s).rxPayload = s.rxPayload := rfl
@[simp] theorem startDecode_written (s : State) : (startDecode s).written = s.written := rfl
@[simp] theorem startDecode_acc (s : State) : (startDecode s).acc = s.acc := rfl
@[simp] theorem startDecode_dstate (s : State) : (startDecode s).dstate = .awaitStart := rfl
@[simp] theorem startDecode_esc (s : State) : (startDecode s).esc = false := rfl
@[simp] theorem startDecode_dacc (s : State) : (startDecode s).dacc = 0 := rfl
@[simp] theorem startDecode_didx (s : State) : (startDecode s).didx = 0 := rfl
@[simp] theorem startDecode_eacc (s : State) : (startDecode s).eacc = s.eacc := rfl
@[simp] theorem startDecode_frameBuf (s : State) : (startDecode s).frameBuf = s.frameBuf := rfl
@[simp] theorem startDecode_frameLen (s : State) : (startDecode s).frameLen = s.frameLen := rfl
@[simp] theorem startDecode_rxStream (s : State) : (startDecode s).rxStream = s.rxStream := rfl
@[simp] theorem startDecode_txLog (s : State) : (startDecode s).txLog = s.txLog := rfl
@[simp] theorem startDecode_txAnswers (s : State) : (startDecode s).txAnswers = s.txAnswers := rfl
@[simp] theorem startDecode_rxRequest (s : State) : (startDecode s).rxRequest = s.rxRequest := rfl
@[simp] theorem startDecode_draws (s : State) : (startDecode s).draws = s.draws := rfl
@[simp] theorem startDecode_inputs (s : State) : (startDecode s).inputs = s.inputs := rfl
@[simp] theorem startDecode_hostReads (s : State) : (startDecode s).hostReads = s.hostReads := rfl

end Sys2Proof.Machine
end

