-- ==== Sys2Proof/Laws/Ops.lean ====
section
/-! SUPPORT. The laws of the shared operations: byte arithmetic, the buffers and their canonical form, the start of a
command, operands, and the write to the transport. -/

namespace Sys2Proof.Machine

/-! Byte arithmetic -/

theorem add8_toNat (a b : Byte) : (add8 a b).toNat = (a.toNat + b.toNat) % 256 :=
  BitVec.toNat_add a b

theorem add8_comm (a b : Byte) : add8 a b = add8 b a := BitVec.add_comm a b

theorem add8_assoc (a b c : Byte) : add8 (add8 a b) c = add8 a (add8 b c) := BitVec.add_assoc a b c

@[simp] theorem add8_zero (a : Byte) : add8 a 0#8 = a := BitVec.add_zero a

@[simp] theorem zero_add8 (a : Byte) : add8 0#8 a = a := BitVec.zero_add a

theorem sum8_append (as bs : List Byte) : sum8 (as ++ bs) = add8 (sum8 as) (sum8 bs) := by
  induction as with
  | nil => simp [sum8]
  | cons a as ih => simp [sum8, ih, add8_assoc]

theorem foldl_add8 (bs : List Byte) (a : Byte) : bs.foldl add8 a = add8 a (sum8 bs) := by
  induction bs generalizing a with
  | nil => simp [sum8]
  | cons b bs ih => simp [sum8, ih, add8_assoc]

/-! The escape rule -/

theorem escapeByte_dle : escapeByte Config.dle = [Config.dle, Config.dle] := by simp [escapeByte]

theorem escapeByte_of_ne {b : Byte} (h : b ≠ Config.dle) : escapeByte b = [b] := by
  simp [escapeByte, h]

theorem escapeByte_length (b : Byte) :
    (escapeByte b).length = if b = Config.dle then 2 else 1 := by
  unfold escapeByte; split <;> rfl

/-! Byte buffers -/

theorem cellAt_putCell (cells : List Host.Cell) (i j : Nat) (b : Byte) :
    cellAt (putCell cells i b) j = if i = j then some b else cellAt cells j := by
  induction cells with
  | nil => simp [putCell, cellAt]
  | cons c cells ih =>
    obtain ⟨a, v⟩ := c
    simp only [putCell]
    split
    · simp [cellAt]
    · split
      · subst_vars; simp only [cellAt]; split <;> simp_all
      · simp only [cellAt, ih]
        split <;> split <;> simp_all

theorem cellAt_of_rising {cells : List Host.Cell} {low j : Nat}
    (h : cellsRising (some low) cells = true) (hj : j ≤ low) : cellAt cells j = none := by
  induction cells generalizing low with
  | nil => rfl
  | cons c cells ih =>
    obtain ⟨a, v⟩ := c
    simp only [cellsRising, Bool.and_eq_true, decide_eq_true_eq] at h
    have ha : a ≠ j := by omega
    simp only [cellAt, ha, if_false]
    exact ih h.2 (by omega)

theorem cellsRising_putCell {cells : List Host.Cell} {low i : Nat} (b : Byte)
    (h : cellsRising (some low) cells = true) (hi : low < i) :
    cellsRising (some low) (putCell cells i b) = true := by
  induction cells generalizing low with
  | nil => simp [putCell, cellsRising, hi]
  | cons c cells ih =>
    obtain ⟨a, v⟩ := c
    simp only [cellsRising, Bool.and_eq_true, decide_eq_true_eq] at h
    simp only [putCell]
    split
    · simp [cellsRising, *]
    · split
      · subst_vars; simp [cellsRising, h]
      · simp only [cellsRising, Bool.and_eq_true, decide_eq_true_eq]
        exact ⟨h.1, ih h.2 (by omega)⟩

theorem cellsRising_putCell_none {cells : List Host.Cell} (i : Nat) (b : Byte)
    (h : cellsRising none cells = true) : cellsRising none (putCell cells i b) = true := by
  cases cells with
  | nil => simp [putCell, cellsRising]
  | cons c cells =>
    obtain ⟨a, v⟩ := c
    simp only [cellsRising] at h
    simp only [putCell]
    split
    · simp [cellsRising, *]
    · split
      · subst_vars; simpa [cellsRising] using h
      · simp only [cellsRising]
        exact cellsRising_putCell b h (by omega)

theorem putCell_all_lt {cells : List Host.Cell} {size i : Nat} (b : Byte) (hi : i < size)
    (h : cells.all (fun c => decide (c.1 < size)) = true) :
    (putCell cells i b).all (fun c => decide (c.1 < size)) = true := by
  induction cells with
  | nil => simp [putCell, hi]
  | cons c cells ih =>
    obtain ⟨a, v⟩ := c
    simp only [List.all_cons, Bool.and_eq_true, decide_eq_true_eq] at h
    simp only [putCell]
    split
    · simp only [List.all_cons, Bool.and_eq_true, decide_eq_true_eq]; exact ⟨hi, h⟩
    · split
      · simp only [List.all_cons, Bool.and_eq_true, decide_eq_true_eq]; exact ⟨hi, h.2⟩
      · simp only [List.all_cons, Bool.and_eq_true, decide_eq_true_eq]; exact ⟨h.1, ih h.2⟩

/-- Reading after writing inside the buffer: the byte written at its index, the old byte elsewhere. -/
theorem Memory.read_write {size i : Nat} (m : Memory) (j : Nat) (b : Byte) (hi : i < size) :
    (m.write size i b).read j = if i = j then some b else m.read j := by
  simp [Memory.read, Memory.write, hi, cellAt_putCell]

theorem Memory.read_write_same {size i : Nat} (m : Memory) (b : Byte) (hi : i < size) :
    (m.write size i b).read i = some b := by simp [Memory.read_write, hi]

/-- A write leaves every other byte alone, inside the buffer or not. -/
theorem Memory.read_write_other {size i j : Nat} (m : Memory) (b : Byte) (hij : i ≠ j) :
    (m.write size i b).read j = m.read j := by
  by_cases hi : i < size
  · simp [Memory.read_write, hi, hij]
  · simp [Memory.write, hi]

/-- A write keeps the canonical form. -/
theorem Memory.wf_write {size : Nat} {m : Memory} (i : Nat) (b : Byte) (h : m.wf size = true) :
    (m.write size i b).wf size = true := by
  unfold Memory.write
  split
  · simp only [Memory.wf, Bool.and_eq_true] at h ⊢
    exact ⟨cellsRising_putCell_none i b h.1, putCell_all_lt b ‹_› h.2⟩
  · exact h

theorem Memory.wf_reset (size : Nat) : (Memory.mk []).wf size = true := rfl

@[simp] theorem Memory.read_empty (i : Nat) : (Memory.mk []).read i = none := rfl

/-- `readRange` answers exactly the listed bytes, in index order. -/
theorem Memory.readRange_eq_ok {m : Memory} {missing : Nat → Fault} {i n : Nat} {bs : List Byte} :
    m.readRange missing i n = .ok bs ↔
      bs.length = n ∧ ∀ k (h : k < bs.length), m.read (i + k) = some bs[k] := by
  induction n generalizing i bs with
  | zero =>
    simp only [Memory.readRange, Except.ok.injEq]
    constructor
    · rintro rfl; simp
    · rintro ⟨h, -⟩; exact (List.length_eq_zero_iff.mp h).symm
  | succ n ih =>
    simp only [Memory.readRange]
    constructor
    · intro h
      split at h
      · exact absurd h (by simp)
      · rename_i b hb
        split at h
        · exact absurd h (by simp)
        · rename_i cs hcs
          obtain rfl := Except.ok.inj h
          obtain ⟨hl, hr⟩ := ih.mp hcs
          refine ⟨by simp [hl], fun k hk => ?_⟩
          cases k with
          | zero => simpa using hb
          | succ k =>
            have := hr k (by simpa using hk)
            simpa [Nat.add_assoc, Nat.add_comm 1 k] using this
    · rintro ⟨hl, hr⟩
      cases bs with
      | nil => simp at hl
      | cons b cs =>
        have hb : m.read i = some b := hr 0 (by simp)
        have hcs : m.readRange missing (i + 1) n = .ok cs := by
          refine ih.mpr ⟨by simpa using hl, fun k hk => ?_⟩
          have := hr (k + 1) (by simpa using hk)
          simpa [Nat.add_assoc, Nat.add_comm 1 k] using this
        simp [hb, hcs]

/-- The first byte that holds no value gives `readRange` its fault. -/
theorem Memory.readRange_first_missing {m : Memory} {missing : Nat → Fault} {i n k : Nat}
    (hk : k < n) (hbefore : ∀ j < k, (m.read (i + j)).isSome) (hnone : m.read (i + k) = none) :
    m.readRange missing i n = .error (missing (i + k)) := by
  induction n generalizing i k with
  | zero => omega
  | succ n ih =>
    simp only [Memory.readRange]
    cases k with
    | zero => simp only [Nat.add_zero] at hnone ⊢; simp [hnone]
    | succ k =>
      obtain ⟨b, hb⟩ := Option.isSome_iff_exists.mp (hbefore 0 (by omega))
      simp only [Nat.add_zero] at hb
      have h := ih (i := i + 1) (k := k) (by omega)
        (fun j hj => by simpa [Nat.add_assoc, Nat.add_comm 1 j] using hbefore (j + 1) (by omega))
        (by simpa [Nat.add_assoc, Nat.add_comm 1 k] using hnone)
      simp only [hb, h]
      simp [Nat.add_assoc, Nat.add_comm 1 k]

/-- `readRange` succeeds when every byte of the range holds a value. -/
theorem Memory.readRange_total {m : Memory} (missing : Nat → Fault) {i n : Nat}
    (h : ∀ j < n, (m.read (i + j)).isSome) : ∃ bs, m.readRange missing i n = .ok bs := by
  induction n generalizing i with
  | zero => exact ⟨[], rfl⟩
  | succ n ih =>
    obtain ⟨b, hb⟩ := Option.isSome_iff_exists.mp (h 0 (by omega))
    obtain ⟨bs, hbs⟩ := ih (i := i + 1)
      (fun j hj => by simpa [Nat.add_assoc, Nat.add_comm 1 j] using h (j + 1) (by omega))
    simp only [Nat.add_zero] at hb
    exact ⟨b :: bs, by simp [Memory.readRange, hb, hbs]⟩

/-! The start of a command, and operands -/

theorem issue_idle {s : State} (h : s.busy = false) (body : State → Result) :
    issue s body = body { s with busy := true } := by simp [issue, h]

theorem issue_busy {s : State} (h : s.busy = true) (body : State → Result) :
    issue s body = .refused .commandWhileBusy := by simp [issue, h]

/-- If a command answers a next state, no other was running and its body answered it. -/
theorem issue_next {s t : State} {body : State → Result} (h : issue s body = .next t) :
    s.busy = false ∧ body { s with busy := true } = .next t := by
  cases hb : s.busy
  · exact ⟨rfl, by rwa [issue_idle hb] at h⟩
  · rw [issue_busy hb] at h; cases h

/-- If a body with an operand answers a next state, the operand held a value. -/
theorem withOperand_next {α : Type} {operand : Except Fault α} {body : α → Result} {t : State}
    (h : withOperand operand body = .next t) : ∃ v, operand = .ok v ∧ body v = .next t := by
  cases operand with
  | error r => cases h
  | ok v => exact ⟨v, rfl, h⟩

@[simp] theorem withOperand_ok {α : Type} (v : α) (body : α → Result) :
    withOperand (.ok v) body = body v := rfl

@[simp] theorem withOperand_error {α : Type} (r : Fault) (body : α → Result) :
    withOperand (.error r) body = .fault r := rfl

/-! The write to the transport -/

/-- All that a `TxWrite` can do: what it answers, and what TX_LOG gains. -/
theorem txWrite_cases (f : List Byte) (s : State) :
    (∃ sent k, txWrite f s =
      (.failed, { s with txAnswers := s.txAnswers.tail, draws := k, txLog := s.txLog ++ f.take sent })) ∨
    (∃ k, txWrite f s =
      (.ok, { s with txAnswers := s.txAnswers.tail, draws := k, txLog := s.txLog ++ f })) ∨
    (∃ k, txWrite f s =
      (.waiting, { s with txAnswers := .withheld :: s.txAnswers.tail, draws := k })) := by
  unfold txWrite nextTxAnswer
  cases h : s.txAnswers with
  | nil =>
    cases ha : Config.freeTxAnswer s.draws with
    | ok => exact .inr (.inl ⟨s.draws + 1, by simp⟩)
    | fail sent => exact .inl ⟨sent, s.draws + 1, by simp⟩
    | withheld => exact .inr (.inr ⟨s.draws + 1, by simp⟩)
  | cons a rest =>
    cases a with
    | ok => exact .inr (.inl ⟨s.draws, by simp⟩)
    | fail sent => exact .inl ⟨sent, s.draws, by simp⟩
    | withheld => exact .inr (.inr ⟨s.draws, by simp⟩)

end Sys2Proof.Machine
end

