-- ==== Sys2Proof/Laws/Encoder.lean ====
section
/-! SUPPORT. What building a frame does: FRAME_BUF gains the bytes of `encodeFrame` in order, FRAME_LEN their number,
EACC the sum of the checksummed bytes, and nothing else changes. -/

namespace Sys2Proof.Machine

/-- Emit the bytes of a list in order. -/
def emitAll (bs : List Byte) (s : State) : State := bs.foldl (fun s x => emit x s) s

theorem emitAll_cons (b : Byte) (bs : List Byte) (s : State) :
    emitAll (b :: bs) s = emitAll bs (emit b s) := rfl

theorem emitAll_append (as bs : List Byte) (s : State) :
    emitAll (as ++ bs) s = emitAll bs (emitAll as s) := List.foldl_append

/-- Emitting changes FRAME_BUF and FRAME_LEN only. -/
theorem emitAll_frame (bs : List Byte) (s : State) :
    emitAll bs s = { s with
      frameBuf := (emitAll bs s).frameBuf
      frameLen := (emitAll bs s).frameLen } := by
  induction bs generalizing s with
  | nil => rfl
  | cons b bs ih => rw [emitAll_cons, ih]; simp only [emit]

theorem emitAll_eacc (bs : List Byte) (s : State) (a : Byte) :
    emitAll bs { s with eacc := a } = { emitAll bs s with eacc := a } := by
  induction bs generalizing s with
  | nil => rfl
  | cons b bs ih => exact ih (emit b s)

/-- What emitting does to the frame while it fits FRAME_BUF: FRAME_LEN counts the bytes, the bytes
stand from the old FRAME_LEN on, and every other byte reads as before. -/
theorem emitAll_spec (bs : List Byte) (s : State)
    (hfit : s.frameLen.toNat + bs.length ≤ Config.frameBufSize) :
    (emitAll bs s).frameLen.toNat = s.frameLen.toNat + bs.length ∧
    (∀ k (h : k < bs.length), (emitAll bs s).frameBuf.read (s.frameLen.toNat + k) = some bs[k]) ∧
    (∀ i, i < s.frameLen.toNat ∨ s.frameLen.toNat + bs.length ≤ i →
      (emitAll bs s).frameBuf.read i = s.frameBuf.read i) := by
  induction bs generalizing s with
  | nil => simp [emitAll]
  | cons b bs ih =>
    have hsize : Config.frameBufSize = 517 := rfl
    simp only [List.length_cons] at hfit
    have hlen : (emit b s).frameLen.toNat = s.frameLen.toNat + 1 := by
      rw [emit_frameLen, BitVec.toNat_add, show (1 : BitVec 10).toNat = 1 from rfl]; omega
    obtain ⟨h1, h2, h3⟩ := ih (emit b s) (by omega)
    rw [emitAll_cons]
    refine ⟨by simp only [List.length_cons]; omega, fun k hk => ?_, fun i hi => ?_⟩
    · cases k with
      | zero =>
        rw [h3 _ (.inl (by omega)), emit_frameBuf]
        exact Memory.read_write_same _ _ (by omega)
      | succ k =>
        have := h2 k (by simpa using hk)
        rw [hlen] at this
        simpa [Nat.add_assoc, Nat.add_comm 1 k] using this
    · simp only [List.length_cons] at hi
      rw [h3 i (by omega), emit_frameBuf]
      exact Memory.read_write_other _ _ (by omega)

/-- Emitting keeps FRAME_BUF canonical. -/
theorem emitAll_wf (bs : List Byte) (s : State) (h : s.frameBuf.wf Config.frameBufSize = true) :
    (emitAll bs s).frameBuf.wf Config.frameBufSize = true := by
  induction bs generalizing s with
  | nil => exact h
  | cons b bs ih => exact ih (emit b s) (by rw [emit_frameBuf]; exact Memory.wf_write _ _ h)

theorem emitField_eq (b : Byte) (s : State) :
    emitField b s = { emitAll (escapeByte b) s with eacc := add8 s.eacc b } := by
  unfold emitField absorbE
  rw [show emitEsc b s = emitAll (escapeByte b) s from rfl, emitAll_frame]

/-- A run of checksummed fields: their escaped bytes are emitted and their values are summed. -/
theorem emitField_foldl (bs : List Byte) (s : State) :
    bs.foldl (fun s b => emitField b s) s =
      { emitAll (bs.flatMap escapeByte) s with eacc := add8 s.eacc (sum8 bs) } := by
  induction bs generalizing s with
  | nil => simp [emitAll, sum8]
  | cons b bs ih =>
    simp only [List.foldl_cons, ih, List.flatMap_cons, emitAll_append, sum8]
    rw [emitField_eq, emitAll_eacc]
    simp [add8_assoc]

/-- What building a frame does, whole: the bytes of `encodeFrame` from index 0 on, and in EACC the sum of
the checksummed bytes. -/
theorem buildFrame_eq (t : Byte) (p : List Byte) (s : State) :
    buildFrame t p s =
      { emitAll (encodeFrame t p) { s with frameLen := 0 } with
        eacc := add8 (add8 t (BitVec.ofNat 8 p.length)) (sum8 p) } := by
  have hfields : emitFields t p (beginFrame s) =
      ([t, BitVec.ofNat 8 p.length] ++ p).foldl (fun s b => emitField b s)
        { emitAll [Config.dle] { s with frameLen := 0 } with eacc := 0 } := rfl
  unfold buildFrame endFrame
  rw [hfields, emitField_foldl, emitAll_eacc]
  simp only [show ∀ b s, emitEsc b s = emitAll (escapeByte b) s from fun _ _ => rfl,
    show ∀ x y s, emit x (emit y s) = emitAll [y, x] s from fun _ _ _ => rfl, emitAll_eacc]
  simp only [encodeFrame, packetChecksum, ← emitAll_append, sum8_append]
  simp [sum8, add8_assoc]

/-- Building a frame changes EACC, FRAME_BUF and FRAME_LEN only. -/
theorem buildFrame_frame (t : Byte) (p : List Byte) (s : State) :
    buildFrame t p s = { s with
      eacc := (buildFrame t p s).eacc
      frameBuf := (buildFrame t p s).frameBuf
      frameLen := (buildFrame t p s).frameLen } := by
  rw [buildFrame_eq, emitAll_frame]

/-- A frame that fits FRAME_BUF stands there whole after it is built, and is what is sent. -/
theorem frameBytes_buildFrame {t : Byte} {p : List Byte} (s : State)
    (hfit : (encodeFrame t p).length ≤ Config.frameBufSize) :
    frameBytes (buildFrame t p s) = .ok (encodeFrame t p) := by
  obtain ⟨h1, h2, -⟩ := emitAll_spec (encodeFrame t p) { s with frameLen := 0 } (by simpa using hfit)
  rw [buildFrame_eq]
  refine Memory.readRange_eq_ok.mpr ⟨?_, fun k hk => ?_⟩
  · simpa using h1.symm
  · simpa using h2 k hk

theorem encodeFrame_ne_nil (t : Byte) (p : List Byte) : encodeFrame t p ≠ [] := by
  simp [encodeFrame]

/-- All that ending an ENCODE can do once its frame can be read: it is sent whole, a leading part is
sent and the command fails, or the transport has not answered. -/
theorem sendFrame_cases {s t : State} (h : sendFrame s = .next t) :
    ∃ f, frameBytes s = .ok f ∧
      ((∃ u, txWrite f s = (.ok, u) ∧ t = completeOk u) ∨
       (∃ u, txWrite f s = (.failed, u) ∧ t = raiseError .transportError u) ∨
       (txWrite f s = (.waiting, t))) := by
  obtain ⟨f, hf, hb⟩ := withOperand_next h
  refine ⟨f, hf, ?_⟩
  rcases hw : txWrite f s with ⟨r, u⟩
  simp only [hw, Host.Outcome.next.injEq] at hb
  cases r with
  | ok => exact .inl ⟨u, rfl, hb.symm⟩
  | failed => exact .inr (.inl ⟨u, rfl, hb.symm⟩)
  | waiting => exact .inr (.inr (by simp only at hb; rw [hb]))

end Sys2Proof.Machine
end

