-- ==== Sys2Proof/Laws/Decoder.lean ====
section
/-! SUPPORT. What the decoder does: one byte, one logical byte of a field, a payload, and a whole frame up to its
checksum; and what it never touches. -/

namespace Sys2Proof.Machine

/-! One byte -/

/-- A DECODE in progress changes only the decoder's registers, the status, and BUSY. -/
def decoderFrame (s t : State) : Prop :=
  t = { s with
    status := t.status, written := { s.written with status := t.written.status }, busy := t.busy
    rxValid := t.rxValid, rxType := t.rxType, rxLen := t.rxLen, rxPayload := t.rxPayload
    dstate := t.dstate, esc := t.esc, dacc := t.dacc, didx := t.didx
    rxStream := t.rxStream, rxRequest := t.rxRequest }

theorem decoderFrame_refl (s : State) : decoderFrame s s := rfl

theorem decoderFrame_trans {s t u : State} (h1 : decoderFrame s t) (h2 : decoderFrame t u) :
    decoderFrame s u := by
  unfold decoderFrame at *
  rw [h2, h1]

theorem raiseError_frame (code : Status) (s : State) : decoderFrame s (raiseError code s) := rfl

theorem deliver_frame (v : Byte) (s : State) : decoderFrame s (deliver v s) := by
  unfold decoderFrame deliver; split <;> rfl

theorem byteStep_frame (b : Byte) (s : State) : decoderFrame s (byteStep b s) := by
  unfold byteStep expectByte fieldByte
  split <;> first
    | rfl
    | (split
       · first | rfl | exact deliver_frame Config.dle { s with esc := false }
       · first | rfl | (split; · rfl
                        · exact deliver_frame b s))

theorem internalStep_frame (s : State) : decoderFrame s (internalStep s) := by
  unfold internalStep
  split <;> first | rfl | (split <;> rfl)

theorem decodeByte_frame (b : Byte) (s : State) : decoderFrame s (decodeByte b s) :=
  decoderFrame_trans (byteStep_frame b s) (internalStep_frame _)

/-- A whole run changes only what a DECODE may change. -/
theorem decodeRun_frame (stream : List RxItem) (s : State) : decoderFrame s (decodeRun stream s) := by
  induction stream generalizing s with
  | nil => rfl
  | cons a rest ih =>
    cases a with
    | fail => rfl
    | withheld => rfl
    | byte b =>
      have h0 : decoderFrame s (decodeByte b (requestRead rest s)) :=
        decoderFrame_trans (show decoderFrame s (requestRead rest s) from rfl) (decodeByte_frame _ _)
      simp only [decodeRun]
      split
      · exact h0
      · exact decoderFrame_trans h0 (ih _)

theorem decodeRun_byte (b : Byte) (rest : List RxItem) (s : State) :
    decodeRun (.byte b :: rest) s =
      if (decodeByte b (requestRead rest s)).dstate = .idle
      then decodeByte b (requestRead rest s)
      else decodeRun rest (decodeByte b (requestRead rest s)) := rfl

/-- An induction over a run of the decoder: a property of the state with RX_STREAM at the point reached
holds at the end if every read keeps it. -/
theorem decodeRun_induction {P : State → Prop} (stream : List RxItem) (s : State)
    (hnil : ∀ s, P s → s.dstate ≠ .idle → P (raiseError .transportError (requestRead [] s)))
    (hfail : ∀ rest s, P s → s.dstate ≠ .idle → P (raiseError .transportError (requestRead rest s)))
    (hwait : ∀ rest s, P s → s.dstate ≠ .idle → P (requestRead (.withheld :: rest) s))
    (hbyte : ∀ b rest s, P s → s.dstate ≠ .idle → P (decodeByte b (requestRead rest s)))
    (hs : P s) (hd : s.dstate ≠ .idle) : P (decodeRun stream s) := by
  induction stream generalizing s with
  | nil => exact hnil s hs hd
  | cons a rest ih =>
    cases a with
    | fail => exact hfail rest s hs hd
    | withheld => exact hwait rest s hs hd
    | byte b =>
      rw [decodeRun_byte]
      split
      · exact hbyte b rest s hs hd
      · exact ih _ (hbyte b rest s hs hd) ‹_›

/-! One logical byte -/

theorem requestRead_requestRead (r1 r2 : List RxItem) (s : State) :
    requestRead r1 (requestRead r2 s) = requestRead r1 s := rfl

theorem internalStep_of_field {s : State} (h : s.dstate.isField = true) : internalStep s = s := by
  unfold internalStep
  split <;> simp_all [DState.isField]

theorem byteStep_of_field {s : State} (b : Byte) (h : s.dstate.isField = true) :
    byteStep b s = fieldByte b s := by
  unfold byteStep
  split <;> simp_all [DState.isField]

theorem DState.isField_ne_idle {d : DState} (h : d.isField = true) : d ≠ .idle := by
  rintro rfl; cases h

/-- The unescaper: in a field state, the physical bytes of one logical byte deliver it, whatever the
second byte of a pair is (R141, R157). -/
theorem decodeRun_pairBytes (f : Byte × Byte) (rest : List RxItem) {s : State}
    (hf : s.dstate.isField = true) (he : s.esc = false) :
    decodeRun ((pairBytes f).map .byte ++ rest) s =
      if (internalStep (deliver f.1 (requestRead rest s))).dstate = .idle
      then internalStep (deliver f.1 (requestRead rest s))
      else decodeRun rest (internalStep (deliver f.1 (requestRead rest s))) := by
  obtain ⟨b, x⟩ := f
  have hne := DState.isField_ne_idle hf
  by_cases hb : b = Config.dle
  · subst hb
    have h1 : decodeByte Config.dle (requestRead (.byte x :: rest) s) =
        { requestRead (.byte x :: rest) s with esc := true } := by
      unfold decodeByte
      rw [byteStep_of_field _ (by exact hf)]
      simp only [fieldByte, requestRead_esc, he, if_true, Bool.false_eq_true, if_false]
      exact internalStep_of_field hf
    have h2 : decodeByte x (requestRead rest { requestRead (.byte x :: rest) s with esc := true }) =
        internalStep (deliver Config.dle (requestRead rest s)) := by
      unfold decodeByte
      rw [byteStep_of_field _ (by exact hf)]
      have hst : ({ s with esc := false } : State) = s := by rw [← he]
      have : fieldByte x (requestRead rest { requestRead (.byte x :: rest) s with esc := true }) =
          deliver Config.dle (requestRead rest { s with esc := false }) := rfl
      rw [this, hst]
    simp only [pairBytes, if_true, List.map_cons, List.map_nil, List.cons_append, List.nil_append]
    rw [decodeRun_byte, h1]
    rw [if_neg (by exact hne), decodeRun_byte, h2]
  · have h1 : decodeByte b (requestRead rest s) = internalStep (deliver b (requestRead rest s)) := by
      unfold decodeByte
      rw [byteStep_of_field _ (by exact hf)]
      simp only [fieldByte, requestRead_esc, he, hb, Bool.false_eq_true, if_false]
    simp only [pairBytes, hb, if_false, List.map_cons, List.map_nil, List.cons_append, List.nil_append]
    rw [decodeRun_byte, h1]

/-! The payload -/

/-- Write a list of bytes from an index on. -/
def Memory.writeAll (size : Nat) : Memory → Nat → List Byte → Memory
  | m, _, [] => m
  | m, i, b :: bs => Memory.writeAll size (m.write size i b) (i + 1) bs

theorem Memory.read_writeAll {size : Nat} (bs : List Byte) (m : Memory) (i : Nat)
    (h : i + bs.length ≤ size) :
    (∀ k (hk : k < bs.length), (m.writeAll size i bs).read (i + k) = some bs[k]) ∧
    (∀ j, j < i ∨ i + bs.length ≤ j → (m.writeAll size i bs).read j = m.read j) := by
  induction bs generalizing m i with
  | nil => simp [Memory.writeAll]
  | cons b bs ih =>
    simp only [List.length_cons] at h
    obtain ⟨h1, h2⟩ := ih (m.write size i b) (i + 1) (by omega)
    refine ⟨fun k hk => ?_, fun j hj => ?_⟩
    · cases k with
      | zero =>
        simp only [Memory.writeAll, Nat.add_zero, List.getElem_cons_zero]
        rw [h2 i (.inl (by omega))]
        exact Memory.read_write_same m b (by omega)
      | succ k =>
        have := h1 k (by simpa using hk)
        simpa [Memory.writeAll, Nat.add_assoc, Nat.add_comm 1 k] using this
    · simp only [List.length_cons] at hj
      simp only [Memory.writeAll]
      rw [h2 j (by omega)]
      exact Memory.read_write_other m b (by omega)

/-- READ_PAYLOAD with `ps` still to come: their logical bytes are stored and summed, and the decoder
goes to READ_CHECKSUM (R146). -/
theorem decodeRun_payload (ps : List (Byte × Byte)) (rest : List RxItem) {s : State}
    (hd : s.dstate = .readPayload) (he : s.esc = false) (hne : ps ≠ [])
    (hlen : s.didx.toNat + ps.length = s.rxLen.toNat) :
    decodeRun ((wireBytes ps).map .byte ++ rest) s =
      decodeRun rest (requestRead rest { s with
        rxPayload := s.rxPayload.writeAll Config.maxPayload s.didx.toNat (ps.map Prod.fst)
        dacc := add8 s.dacc (sum8 (ps.map Prod.fst))
        didx := s.rxLen
        dstate := .readChecksum }) := by
  induction ps generalizing s with
  | nil => exact absurd rfl hne
  | cons f ps ih =>
    have hfield : s.dstate.isField = true := by rw [hd]; rfl
    have hlt := s.rxLen.isLt
    simp only [List.length_cons] at hlen
    have hidx : (s.didx + 1).toNat = s.didx.toNat + 1 := by
      rw [BitVec.toNat_add, show (1 : Byte).toNat = 1 from rfl]; omega
    have hlast : s.didx + 1 = s.rxLen ↔ ps = [] := by
      rw [← BitVec.toNat_inj, hidx, ← List.length_eq_zero_iff]; omega
    simp only [wireBytes, List.flatMap_cons, List.map_append, List.append_assoc]
    rw [decodeRun_pairBytes f _ hfield he]
    have hdel : ∀ r, deliver f.1 (requestRead r s) = { requestRead r s with
        rxPayload := s.rxPayload.write Config.maxPayload s.didx.toNat f.1
        dacc := add8 s.dacc f.1
        didx := s.didx + 1
        dstate := if s.didx + 1 = s.rxLen then .readChecksum else .readPayload } := by
      intro r; unfold deliver; rw [requestRead_dstate, hd]; rfl
    simp only [hdel]
    by_cases hps : ps = []
    · subst hps
      have h1 := hlast.mpr rfl
      rw [if_pos h1]
      rw [internalStep_of_field (by rfl), if_neg (by simp)]
      simp only [List.flatMap_nil, List.map_nil, List.nil_append, List.map_cons, sum8,
        Memory.writeAll, h1]
      simp [requestRead]
    · have h1 : ¬ (s.didx + 1 = s.rxLen) := fun h => hps (hlast.mp h)
      rw [if_neg h1, internalStep_of_field (by rfl), if_neg (by simp)]
      have := ih (s := { requestRead ((wireBytes ps).map .byte ++ rest) s with
        rxPayload := s.rxPayload.write Config.maxPayload s.didx.toNat f.1
        dacc := add8 s.dacc f.1
        didx := s.didx + 1
        dstate := .readPayload }) rfl he hps (by simp only [requestRead_rxLen]; omega)
      simp only [wireBytes, hidx] at this ⊢
      rw [this]
      simp only [requestRead, Memory.writeAll, sum8, add8_assoc, List.map_cons]

/-! A frame up to its checksum -/

/-- The decoder's registers after a frame head, before the checksum is tested. -/
def afterHead (t n c : Byte) (p : List Byte) (rest : List RxItem) (s : State) : State :=
  requestRead rest { s with
    rxType := t
    rxLen := n
    rxPayload := s.rxPayload.writeAll Config.maxPayload 0 p
    dacc := add8 (add8 (add8 t n) (sum8 p)) c
    didx := n
    dstate := .verify }

/-- From its start actions on, DECODE reads a frame head whole, whatever the second bytes of its
escape pairs are, and then tests the sum (R142 up to VERIFY, R148). -/
theorem decodeRun_frameHead (t n c : Byte × Byte) (p : List (Byte × Byte)) (rest : List RxItem)
    (s : State) (hlen : p.length = n.1.toNat) :
    decodeRun ((frameHead t n p c).map .byte ++ rest) (startDecode s) =
      if frameSum t n p c = 0 then
        decodeRun rest { afterHead t.1 n.1 c.1 (p.map Prod.fst) rest (startDecode s) with
          dstate := .awaitDleEnd }
      else
        raiseError .checksumMismatch
          (afterHead t.1 n.1 c.1 (p.map Prod.fst) rest (startDecode s)) := by
  have hsum : frameSum t n p c = add8 (add8 (add8 t.1 n.1) (sum8 (p.map Prod.fst))) c.1 := by
    simp [frameSum, sum8_append, sum8, add8_assoc]
  simp only [frameHead, wireBytes, List.flatMap_cons, List.flatMap_append, List.flatMap_nil,
    List.map_cons, List.map_append, List.cons_append, List.append_assoc, List.nil_append,
    List.append_nil]
  rw [decodeRun_byte]
  have hstart : ∀ r, decodeByte Config.dle (requestRead r (startDecode s)) =
      { requestRead r (startDecode s) with dstate := .readType } := by
    intro r; simp [decodeByte, byteStep, expectByte, internalStep]
  rw [hstart, if_neg (by simp), decodeRun_pairBytes t _ (by rfl) (by rfl)]
  have htype : ∀ r q, internalStep (deliver t.1 (requestRead r
        { requestRead q (startDecode s) with dstate := .readType })) =
      requestRead r { startDecode s with rxType := t.1, dacc := t.1, dstate := .readLen } := by
    intro r q; simp [deliver, internalStep, requestRead]
  rw [htype, if_neg (by simp), decodeRun_pairBytes n _ (by rfl) (by rfl)]
  have hchecksum : ∀ (u : State), u.dstate = .readChecksum → u.esc = false →
      decodeRun (List.map RxItem.byte (pairBytes c) ++ rest) u =
        if add8 u.dacc c.1 = 0 then
          decodeRun rest { requestRead rest u with
            dacc := add8 u.dacc c.1, dstate := .awaitDleEnd }
        else raiseError .checksumMismatch { requestRead rest u with
            dacc := add8 u.dacc c.1, dstate := .verify } := by
    intro u hu he
    rw [decodeRun_pairBytes c _ (by rw [hu]; rfl) he]
    have : deliver c.1 (requestRead rest u) =
        { requestRead rest u with dacc := add8 u.dacc c.1, dstate := .verify } := by
      simp [deliver, hu]
    rw [this]
    by_cases h0 : add8 u.dacc c.1 = 0
    · simp [internalStep, sumIsZero, h0]
    · have h0' : ¬ add8 u.dacc c.1 = 0#8 := h0
      simp [internalStep, sumIsZero, h0']
  by_cases hn : n.1 = 0
  · have hp : p = [] := by
      rw [hn] at hlen; exact List.length_eq_zero_iff.mp (by simpa using hlen)
    subst hp
    have hl : ∀ r q, internalStep (deliver n.1 (requestRead r (requestRead q
          { startDecode s with rxType := t.1, dacc := t.1, dstate := .readLen }))) =
        requestRead r { startDecode s with
          rxType := t.1, rxLen := n.1, dacc := add8 t.1 n.1, didx := 0, dstate := .readChecksum } := by
      intro r q; simp [deliver, internalStep, requestRead, hn]
    rw [hl, if_neg (by simp)]
    simp only [List.flatMap_nil, List.map_nil, List.nil_append]
    rw [hchecksum _ (by simp) (by simp), hsum]
    simp [sum8, afterHead, requestRead, Memory.writeAll, hn]
  · have hl : ∀ r q, internalStep (deliver n.1 (requestRead r (requestRead q
          { startDecode s with rxType := t.1, dacc := t.1, dstate := .readLen }))) =
        requestRead r { startDecode s with
          rxType := t.1, rxLen := n.1, dacc := add8 t.1 n.1, didx := 0, dstate := .readPayload } := by
      intro r q
      have hn' : ¬ n.1 = 0#8 := hn
      simp [deliver, internalStep, requestRead, hn']
    rw [hl, if_neg (by simp)]
    have hpne : p ≠ [] := by
      rintro rfl
      exact hn (BitVec.eq_of_toNat_eq (by simpa using hlen.symm))
    have := decodeRun_payload p (List.map RxItem.byte (pairBytes c) ++ rest)
      (s := requestRead (List.map RxItem.byte (wireBytes p) ++ (List.map RxItem.byte (pairBytes c) ++ rest))
        { startDecode s with
          rxType := t.1, rxLen := n.1, dacc := add8 t.1 n.1, didx := 0, dstate := .readPayload })
      rfl rfl hpne (by simpa using hlen)
    simp only [wireBytes] at this
    rw [this, hchecksum _ (by rfl) (by rfl), hsum]
    simp [afterHead, requestRead]

/-- What the terminators do after a good checksum: any read that is not the one expected ends the
command (R149, R150, R152), and `10 03` completes it (R151). -/
theorem decodeRun_terminators (rest : List RxItem) {s : State} (hd : s.dstate = .awaitDleEnd) :
    decodeRun (.byte Config.dle :: .byte Config.etx :: rest) s =
      completeOk { requestRead rest s with rxValid := true, dstate := .idle } := by
  have h1 : ∀ r, decodeByte Config.dle (requestRead r s) =
      { requestRead r s with dstate := .awaitEtx } := by
    intro r; simp [decodeByte, byteStep, expectByte, internalStep, hd]
  rw [decodeRun_byte, h1, if_neg (by simp), decodeRun_byte]
  simp [decodeByte, byteStep, expectByte, internalStep, requestRead]

/-- The escaped bytes of the encoder are pairs whose second byte is DLE (R81, R160). -/
theorem escapeByte_eq_pairBytes (b : Byte) : escapeByte b = pairBytes (b, Config.dle) := rfl

theorem flatMap_escapeByte (bs : List Byte) :
    bs.flatMap escapeByte = wireBytes (bs.map fun b => (b, Config.dle)) := by
  induction bs with
  | nil => rfl
  | cons b bs ih =>
    simp only [List.flatMap_cons, List.map_cons, wireBytes, escapeByte_eq_pairBytes] at ih ⊢
    rw [ih]

/-- A frame of the encoder is a frame head with true pairs, then the terminators. -/
theorem encodeFrame_eq_frameHead (t : Byte) (p : List Byte) :
    encodeFrame t p =
      frameHead (t, Config.dle) (BitVec.ofNat 8 p.length, Config.dle) (p.map fun b => (b, Config.dle))
        (packetChecksum t p, Config.dle) ++ [Config.dle, Config.etx] := by
  unfold encodeFrame frameHead
  simp only [flatMap_escapeByte, escapeByte_eq_pairBytes]
  simp [wireBytes]

/-- The checksum of a packet closes its sum (R104, R105). -/
theorem frameSum_packetChecksum (t : Byte) (p : List Byte) :
    frameSum (t, Config.dle) (BitVec.ofNat 8 p.length, Config.dle) (p.map fun b => (b, Config.dle))
      (packetChecksum t p, Config.dle) = 0 := by
  have hmap : (p.map fun b => (b, Config.dle)).map Prod.fst = p := by simp [Function.comp_def]
  simp only [frameSum, List.map_append, List.map_cons, List.map_nil, hmap, sum8_append, sum8,
    packetChecksum, neg8, add8]
  bv_omega

end Sys2Proof.Machine
end

