-- ==== Sys2Proof/Laws/Host.lean ====
section
/-! SUPPORT. What the host's port can do when it answers a next state: host writes and reads (R21, R214), the
transport's waking (R219), and the step. -/

namespace Sys2Proof.Machine

/-- A host write that goes on: the register exists, admits the write, BUSY = 0, the value fits, and the rest is
`writeReg`. Every register the host may write is held while BUSY = 1 (R214). -/
theorem hostWrite_next {num : Nat} {v : LenWord} {s t : State} (h : hostWrite num v s = .next t) :
    ∃ r, Reg.ofNumber num = some r ∧ r.hostWritable = true ∧ s.busy = false ∧ r.fits v = true ∧
      writeReg r v s = .next t := by
  unfold hostWrite at h
  split at h
  · cases h
  · rename_i r hr
    split at h
    · cases h
    · rename_i hw
      split at h
      · cases h
      · rename_i hb
        split at h
        · cases h
        · rename_i hf
          refine ⟨r, hr, by simpa using hw, ?_, by simpa using hf, h⟩
          cases r <;> first | (simpa [Reg.heldWhileBusy] using hb) | (simp [Reg.hostWritable] at hw)

/-- A host read that goes on: the register exists, admits the read, is not held back, holds a value, and the value joins
`hostReads`. -/
theorem hostRead_next {num : Nat} {s t : State} (h : hostRead num s = .next t) :
    ∃ r v, Reg.ofNumber num = some r ∧ r.hostReadable = true ∧ (s.busy && r.heldWhileBusy) = false ∧
      readReg r s = .ok v ∧ t = { s with hostReads := s.hostReads ++ [(num, v)] } := by
  unfold hostRead at h
  split at h
  · cases h
  · rename_i r hr
    split at h
    · cases h
    · rename_i hw
      split at h
      · cases h
      · rename_i hb
        obtain ⟨v, hv, h⟩ := withOperand_next h
        exact ⟨r, v, hr, by simpa using hw, by simpa using hb, hv, by cases h; rfl⟩

/-- A command issued by a write of CMD: the word decodes, and the rest is `exec`. -/
theorem runCommand_next {w : Byte} {s t : State} (h : runCommand w s = .next t) :
    ∃ i, decodeCommand w = .ok i ∧ exec i { s with cmd := w } = .next t := by
  unfold runCommand at h
  split at h
  · cases h
  · exact ⟨_, ‹_›, h⟩

/-- A waking: nothing waits, an ENCODE goes on with its write, or a DECODE goes on with its reads. -/
theorem transportWake_next {s t : State} (h : transportWake s = .next t) :
    (s.busy = false ∧ t = s) ∨
    (s.busy = true ∧ s.dstate = .idle ∧ sendFrame { s with txAnswers := wakeTx s.txAnswers } = .next t) ∨
    (s.busy = true ∧ s.dstate ≠ .idle ∧ t = resumeDecode { s with rxStream := wakeRx s.rxStream }) := by
  unfold transportWake at h
  split at h
  · rename_i hb
    split at h
    · exact .inr (.inl ⟨hb, ‹_›, h⟩)
    · exact .inr (.inr ⟨hb, ‹_›, by cases h; rfl⟩)
  · rename_i hb
    exact .inl ⟨by simpa using hb, by cases h; rfl⟩

/-- A step: no input and nothing changes, or the first input is performed. -/
theorem step_next {s t : State} (h : step s = .next t) :
    (s.inputs = [] ∧ t = s) ∨
    ∃ a rest, s.inputs = a :: rest ∧ perform a { s with inputs := rest } = .next t := by
  unfold step at h
  split at h
  · exact .inl ⟨‹_›, by cases h; rfl⟩
  · exact .inr ⟨_, _, ‹_›, h⟩

end Sys2Proof.Machine
end

