-- ==== Sys2Proof/Laws/PerInstr.lean ====
section
/-! SUPPORT. What holds of each command as syntax: its word keeps ZERO at 0 (R70), its OP is one of 1 to 5 (R71), the
word is unchanged by the way a host write carries it, and no other command has it. -/

namespace Sys2Proof.Laws

/-- R70 and R71 for one command: the command is well formed, its word has ZERO = 0 and 1 ≤ OP ≤ 5, the word survives
the widening of a host write, and it is this command's alone. -/
def Encoding.Statement (i : Instr) : Prop :=
  i.wf = true ∧ zeroField (encodeCommand i) = 0 ∧
  1 ≤ (opField (encodeCommand i)).toNat ∧ (opField (encodeCommand i)).toNat ≤ 5 ∧
  ((encodeCommand i).setWidth Config.lenW).setWidth 8 = encodeCommand i ∧
  ∀ j : Instr, encodeCommand j = encodeCommand i → j = i

theorem Encoding.ckReset : Encoding.Statement .ckReset :=
  ⟨rfl, rfl, by decide, by decide, by decide, fun j h => by cases j <;> first | rfl | exact absurd h (by decide)⟩

theorem Encoding.ckAbsorb : Encoding.Statement .ckAbsorb :=
  ⟨rfl, rfl, by decide, by decide, by decide, fun j h => by cases j <;> first | rfl | exact absurd h (by decide)⟩

theorem Encoding.ckFinalize : Encoding.Statement .ckFinalize :=
  ⟨rfl, rfl, by decide, by decide, by decide, fun j h => by cases j <;> first | rfl | exact absurd h (by decide)⟩

theorem Encoding.encode : Encoding.Statement .encode :=
  ⟨rfl, rfl, by decide, by decide, by decide, fun j h => by cases j <;> first | rfl | exact absurd h (by decide)⟩

theorem Encoding.decode : Encoding.Statement .decode :=
  ⟨rfl, rfl, by decide, by decide, by decide, fun j h => by cases j <;> first | rfl | exact absurd h (by decide)⟩

end Sys2Proof.Laws
end

