-- ==== Sys2Proof/Tests/Slice0.lean ====
section
/-! SUPPORT. Small tests on fixed values, and for every obligation with hypotheses a state and operands that meet them
together. Expected results come from spec/95_test_vectors.md (V…, P…) or are read off the rule that is named. -/

namespace Sys2Proof.Tests

open Sys2Proof.Machine

-- One theorem after another: elaborated side by side, the many kernel evaluations ask for a thread each, and a
-- memory limit can then refuse one.
set_option Elab.async false

/-! Helpers -/

/-- What `f` sees of the next state, none when the step stops. -/
def after {α : Type} (r : Result) (f : State → α) : Option α :=
  match r with
  | .next t => some (f t)
  | .fault _ => none
  | .refused _ => none

/-- The fault a step stopped with. -/
def faultOf (r : Result) : Option Fault :=
  match r with
  | .fault e => some e
  | .next _ => none
  | .refused _ => none

/-- The refusal a step stopped with. -/
def refusalOf (r : Result) : Option Refusal :=
  match r with
  | .refused e => some e
  | .next _ => none
  | .fault _ => none

/-- Reset, then ACC and DIN at the given values. -/
def withAcc (acc din : Byte) : State :=
  { State.reset with acc := acc, din := din, written := { State.reset.written with din := true } }

/-- Reset, with a packet to send and the transport's answers to the writes. -/
def toSend (t : Byte) (n : LenWord) (p : List Host.Cell) (answers : List TxItem) : State :=
  { State.reset with
    txType := t, txLen := n, txPayload := ⟨p⟩, txAnswers := answers
    written := { State.reset.written with txType := true, txLen := true } }

/-- Reset, with the transport about to give these answers. -/
def toReceive (stream : List RxItem) : State := { State.reset with rxStream := stream }

/-- Reset, with the outside world about to do these things. -/
def script (inputs : List Input) : State := { State.reset with inputs := inputs }

/-- Bytes as answers. -/
def bytesOf (bs : List Byte) : List RxItem := bs.map .byte

/-- What DECODE leaves: STATUS, RX_VALID, the packet, and the answers still unread. -/
def decodeEnd (s : State) : Option (Status × Bool × Option Packet × List RxItem) :=
  after (exec .decode s) fun t => (t.status, t.rxValid, rxPacket t, t.rxStream)

/-- What ENCODE leaves: STATUS, BUSY and TX_LOG. -/
def encodeEnd (s : State) : Option (Status × Bool × List Byte) :=
  after (exec .encode s) fun t => (t.status, t.busy, t.txLog)

/-- A DECODE that waits for its first byte. -/
def decodeWaits : State :=
  { toReceive [.withheld] with busy := true, dstate := .awaitStart }

/-- V20's ENCODE waiting for its write. -/
def encodeWaits : State :=
  { toSend 0xFE 0 [] [.withheld] with
    busy := true, frameLen := 6
    frameBuf := ⟨[(0, 0x10), (1, 0xFE), (2, 0x00), (3, 0x02), (4, 0x10), (5, 0x03)]⟩ }

/-! Well-formedness: an ill-formed term for each check -/

/-- R21 gives the host no write of STATUS. -/
theorem test_wf_refuses_read_only : Input.wf (.hostWrite 0x02 0) = false := by decide
/-- 0x100 does not fit DIN's 8 bits (R79). -/
theorem test_wf_refuses_wide_value : Input.wf (.hostWrite 0x01 0x100) = false := by decide
/-- 0x06 is reserved (R73, V13). -/
theorem test_wf_refuses_reserved_word : Input.wf (.hostWrite 0x00 0x06) = false := by decide
/-- 0x0A is unassigned (R21), for a write and for a read. -/
theorem test_wf_refuses_unassigned :
    Input.wf (.hostWrite 0x0A 0) = false ∧ Input.wf (.hostRead 0x0A) = false := by decide
/-- DIN is write-only (R25). -/
theorem test_wf_refuses_write_only : Input.wf (.hostRead 0x01) = false := by decide
/-- The written lines' checks: a register that is read-only, one that is write-only, 256 bytes (R77, R78). -/
theorem test_wf_refuses_lines :
    AsmLine.wf (.set .busy 0) = false ∧ AsmLine.wf (.get .din) = false ∧
    AsmLine.wf (.send 0 (List.replicate 256 0)) = false ∧
    AsmLine.wf (.send 0 (List.replicate 255 0)) = true := by decide +kernel

/-! Decoding: the words written out from 30_encoding.md R70 and R71 -/

theorem test_decode_words :
    decodeTableWord 8 0b0000_0001 = some .ckReset ∧ decodeTableWord 8 0b0000_0010 = some .ckAbsorb ∧
    decodeTableWord 8 0b0000_0011 = some .ckFinalize ∧ decodeTableWord 8 0b0000_0100 = some .encode ∧
    decodeTableWord 8 0b0000_0101 = some .decode := by decide
/-- V13 and the neighbours of the defined words: OP 0, 6 and 15, and OP 5 with a bit of ZERO set. -/
theorem test_decode_refuses :
    decodeTableWord 8 0x00 = none ∧ decodeTableWord 8 0x06 = none ∧ decodeTableWord 8 0x0F = none ∧
    decodeTableWord 8 0x15 = none ∧ decodeTableWord 8 0x85 = none := by decide
/-- R78's `SEND 0x10, [0x10, 0x03]`, as P2 writes it out. -/
theorem test_expand_send : AsmLine.expand (.send 0x10 [0x10, 0x03]) =
    some [.hostWrite 0x05 0x10, .hostWrite 0x06 2, .hostWrite 0x100 0x10, .hostWrite 0x101 0x03,
      .hostWrite 0x00 0x04] := by decide

/-! The five commands -/

/-- V1. -/
theorem test_ckReset : after (exec .ckReset (withAcc 0x7C 0)) (fun t => (t.acc, t.status, t.busy))
    = some (0x00, .ok, false) := by decide
/-- V5. -/
theorem test_ckAbsorb_wraps : after (exec .ckAbsorb (withAcc 0xFF 0xFF)) State.acc = some 0xFE := by decide
/-- V12. -/
theorem test_ckAbsorb_unwritten : faultOf (exec .ckAbsorb State.reset) = some (.unspecifiedRead 0x01) := by decide
/-- V11: the result, and ACC unchanged. -/
theorem test_ckFinalize : after (exec .ckFinalize (withAcc 0xF0 0)) (fun t => (t.acc, t.ckResult))
    = some (0xF0, 0x10) := by decide
/-- V8: 0x80 is its own negation. -/
theorem test_ckFinalize_middle : after (exec .ckFinalize (withAcc 0x80 0)) State.ckResult = some 0x80 := by decide
/-- V27: typeID and payload escaped, the length not. -/
theorem test_encode_escapes : encodeEnd (toSend 0x10 2 [(0, 0x10), (1, 0x10)] [.ok])
    = some (.ok, false, [0x10, 0x10, 0x10, 0x02, 0x10, 0x10, 0x10, 0x10, 0xCE, 0x10, 0x03]) := by decide +kernel
/-- V37: the leading part `10 FE` of a failed write stays on the wire. -/
theorem test_encode_fails : encodeEnd (toSend 0xFE 0 [] [.fail 2])
    = some (.transportError, false, [0x10, 0xFE]) := by decide +kernel
/-- V45: the second byte 0x55 of a pair is discarded, and the ETX in the payload is data. -/
theorem test_decode_pair :
    decodeEnd (toReceive (bytesOf [0x10, 0x10, 0x10, 0x02, 0x10, 0x55, 0x03, 0xDB, 0x10, 0x03]))
    = some (.ok, true, some ⟨0x10, [0x10, 0x03]⟩, []) := by decide +kernel
/-- V57: the checksum is read as the pair `10 03`. -/
theorem test_decode_mismatch :
    decodeEnd (toReceive (bytesOf [0x10, 0xFE, 0x01, 0x02, 0x10, 0x03]))
    = some (.checksumMismatch, false, none, []) := by decide +kernel

/-! The host's port and the steps -/

/-- A read of BUSY, then of the packet's typeID while RX_VALID = 0 (R31). -/
theorem test_reads : after (step (script [.hostRead 0x03])) State.hostReads = some [(0x03, 0)] ∧
    faultOf (step (script [.hostRead 0x08])) = some (.unspecifiedRead 0x08) := by decide
/-- P3's first DECODE, issued by a write of CMD: ChecksumMismatch, `10 03` left. -/
theorem test_step_decode : after (step { script [.hostWrite 0x00 0x05] with
      rxStream := bytesOf [0x10, 0xFE, 0x00, 0x03, 0x10, 0x03] }) (fun t => (t.cmd, t.status, t.rxStream))
    = some (0x05, .checksumMismatch, bytesOf [0x10, 0x03]) := by decide +kernel
/-- A write answered later sends the same frame (V20, R219). -/
theorem test_wake : after (transportWake { encodeWaits with txAnswers := [.withheld, .ok] })
      (fun t => (t.status, t.busy, t.txLog))
    = some (.ok, false, [0x10, 0xFE, 0x00, 0x02, 0x10, 0x03]) := by decide +kernel
/-- A reset in the middle of a write leaves any leading part on the wire (R211). -/
theorem test_reset_while_writing : (hardReset 2 encodeWaits).txLog = [0x10, 0xFE] ∧
    (hardReset 2 encodeWaits).busy = false := by decide +kernel
/-- The word placed by `withFetchWord` is issued by the next step (R70). -/
theorem test_withFetchWord : after (step (State.reset.withFetchWord 8 0x03)) (fun t => (t.cmd, t.ckResult))
    = some (0x03, 0x00) := by decide

/-! Witnesses: the hypotheses of each obligation are met together -/

theorem witness_TableWordsDecode : Instr.wf .decode = true := by decide

theorem witness_ReservedWordsAreRefused : (script [.hostWrite 0x00 0x06]).busy = false ∧
    ((0x00 : Byte).toNat = 0 ∨ 6 ≤ (0x00 : Byte).toNat) ∧ ((0x06 : Byte).toNat = 0 ∨ 6 ≤ (0x06 : Byte).toNat) ∧
    ((0xFF : Byte).toNat = 0 ∨ 6 ≤ (0xFF : Byte).toNat) ∧
    (script [.hostWrite 0x00 0x06]).inputs = .hostWrite 0x00 ((0x06 : Byte).setWidth Config.lenW) :: [] := by decide

theorem witness_RegisterNumbersRoundTrip : Reg.ofNumber 0x09 = some .rxLen ∧
    Reg.ofNumber 0x100 = some (.txPayload 0) ∧ Reg.ofNumber 0x1FE = some (.txPayload 254) ∧
    Reg.ofNumber 0x200 = some (.rxPayload 0) ∧ Reg.ofNumber 0x2FE = some (.rxPayload 254) := by decide

/-- Both ends of each clause's range of numbers; no number is in two clauses. -/
theorem witness_HostAccessesOutsideTheTableRefused :
    (∀ num ∈ [0x0A, 0xFF, 0x1FF, 0x2FF, 0x300],
      refusalOf (hostWrite num 0 State.reset) = some (.unassignedRegister num) ∧
      refusalOf (hostRead num State.reset) = some (.unassignedRegister num)) ∧
    (∀ num ∈ [0x00, 0x01], refusalOf (hostRead num State.reset) = some (.writeOnlyRegister num)) ∧
    (∀ num ∈ [0x02, 0x04, 0x07, 0x09, 0x200, 0x2FE],
      refusalOf (hostWrite num 0 State.reset) = some (.readOnlyRegister num)) := by decide

theorem witness_StepRunsDecodedCommand : (script [.hostWrite 0x00 0x05]).busy = false ∧
    decodeCommand 0x05 = .ok .decode ∧
    (script [.hostWrite 0x00 0x05]).inputs = .hostWrite 0x00 ((0x05 : Byte).setWidth Config.lenW) :: [] :=
  ⟨rfl, rfl, rfl⟩

theorem witness_UnansweredReadWaitsForever : (toReceive [.withheld, .byte 0x10]).busy = false ∧
    (toReceive [.withheld, .byte 0x10]).inputs = [] ∧
    (toReceive [.withheld, .byte 0x10]).rxStream = .withheld :: [.byte 0x10] := by decide

theorem witness_CkResetResult : (withAcc 0xFF 0).busy = false := by decide
theorem witness_CkAbsorbResult : (withAcc 0xFF 0xFF).busy = false ∧
    (withAcc 0xFF 0xFF).written.din = true ∧
    State.reset.busy = false ∧ State.reset.written.din = false := by decide
theorem witness_CkFinalizeResult : (withAcc 0x80 0).busy = false := by decide

/-- A pass that starts at ACC = 0, and one that starts elsewhere with its bytes in another order. -/
theorem witness_ChecksumClosure : (withAcc 0 0).busy = false ∧ (withAcc 0 0).acc = 0 ∧
    (withAcc 0x7C 0).busy = false ∧ [(0xFE : Byte), 0x00].Perm [0x00, 0xFE] := by decide

theorem witness_AccumulatorCommandsRaiseNoError :
    (after (exec .ckReset State.reset) State.status).isSome = true ∧
    (after (exec .ckAbsorb (withAcc 0 1)) State.status).isSome = true ∧
    (after (exec .ckFinalize State.reset) State.status).isSome = true ∧
    faultOf (exec .ckAbsorb State.reset) = some (.unspecifiedRead 0x01) ∧
    refusalOf (exec .ckReset decodeWaits) = some .commandWhileBusy := by decide

theorem witness_BuiltFrameIsTheWireFrame : (List.replicate 255 (0x10 : Byte)).length ≤ 255 ∧
    ([] : List Byte).length ≤ 255 ∧ (encodeFrame 0xFE []).length ≤ 6 := by decide +kernel

/-- R85 at V29, whose length byte is DLE. -/
theorem witness_FrameLengthFormula : (List.replicate 16 (0x00 : Byte)).length ≤ 255 ∧
    (encodeFrame 0x00 (List.replicate 16 0x00)).length = 23 := by decide +kernel

theorem witness_FrameLengthBounds : (List.replicate 255 (0x10 : Byte)).length ≤ 255 := by decide +kernel

/-- The hypotheses on ENCODE's operands, met with an empty payload and with a payload. -/
theorem witness_EncodeSendsTheFrame :
    (toSend 0xFE 0 [] [.ok]).busy = false ∧
    ((toSend 0xFE 0 [] [.ok]).written.txType && (toSend 0xFE 0 [] [.ok]).written.txLen) = true ∧
    (toSend 0xFE 0 [] [.ok]).txLen.toNat ≤ 255 ∧ ([] : List Byte).length = (toSend 0xFE 0 [] [.ok]).txLen.toNat ∧
    (toSend 0xFE 0 [] [.ok]).txAnswers = .ok :: [] ∧
    (toSend 0x01 1 [(0, 0x03)] [.ok]).txLen.toNat ≤ 255 ∧
    [(0x03 : Byte)].length = (toSend 0x01 1 [(0, 0x03)] [.ok]).txLen.toNat ∧
    (∀ i (h : i < [(0x03 : Byte)].length),
      (toSend 0x01 1 [(0, 0x03)] [.ok]).txPayload.read i = some [(0x03 : Byte)][i]) := by decide

theorem witness_EncodeWriteFailure :
    (toSend 0x01 1 [(0, 0x03)] [.fail 2]).busy = false ∧
    (toSend 0x01 1 [(0, 0x03)] [.fail 2]).written.txType = true ∧
    (toSend 0x01 1 [(0, 0x03)] [.fail 2]).written.txLen = true ∧
    (toSend 0x01 1 [(0, 0x03)] [.fail 2]).txLen.toNat ≤ 255 ∧
    [(0x03 : Byte)].length = (toSend 0x01 1 [(0, 0x03)] [.fail 2]).txLen.toNat ∧
    (∀ i (h : i < [(0x03 : Byte)].length),
      (toSend 0x01 1 [(0, 0x03)] [.fail 2]).txPayload.read i = some [(0x03 : Byte)][i]) ∧
    (toSend 0x01 1 [(0, 0x03)] [.fail 2]).txAnswers = .fail 2 :: [] := by decide

/-- The hypotheses, and the three listed answers, each reaching its own end. -/
theorem witness_EncodeOutcomes :
    (toSend 0xFE 0 [] [.ok]).busy = false ∧ (toSend 0xFE 0 [] [.ok]).written.txType = true ∧
    (toSend 0xFE 0 [] [.ok]).written.txLen = true ∧ (toSend 0xFE 0 [] [.ok]).txLen.toNat ≤ 255 ∧
    ([] : List Byte).length = (toSend 0xFE 0 [] [.ok]).txLen.toNat ∧
    (∀ i (h : i < ([] : List Byte).length),
      (toSend 0xFE 0 [] [.ok]).txPayload.read i = some ([] : List Byte)[i]) ∧
    (encodeEnd (toSend 0xFE 0 [] [.ok])).map (·.1) = some .ok ∧
    (encodeEnd (toSend 0xFE 0 [] [.fail 9])).map (·.1) = some .transportError ∧
    (encodeEnd (toSend 0xFE 0 [] [.withheld])).map (·.2.1) = some true := by decide +kernel

theorem witness_EncodeWaitsThenSends :
    (toSend 0x01 1 [(0, 0x03)] [.withheld, .ok]).busy = false ∧
    (toSend 0x01 1 [(0, 0x03)] [.withheld, .ok]).dstate = .idle ∧
    (toSend 0x01 1 [(0, 0x03)] [.withheld, .ok]).written.txType = true ∧
    (toSend 0x01 1 [(0, 0x03)] [.withheld, .ok]).written.txLen = true ∧
    (toSend 0x01 1 [(0, 0x03)] [.withheld, .ok]).txLen.toNat ≤ 255 ∧
    [(0x03 : Byte)].length = (toSend 0x01 1 [(0, 0x03)] [.withheld, .ok]).txLen.toNat ∧
    (∀ i (h : i < [(0x03 : Byte)].length),
      (toSend 0x01 1 [(0, 0x03)] [.withheld, .ok]).txPayload.read i = some [(0x03 : Byte)][i]) ∧
    (toSend 0x01 1 [(0, 0x03)] [.withheld, .ok]).txAnswers = .withheld :: .ok :: [] ∧
    (toSend 0x01 1 [(0, 0x03)] [.withheld, .fail 2]).txAnswers = .withheld :: .fail 2 :: [] ∧
    (toSend 0x01 1 [(0, 0x03)] [.withheld, .withheld]).txAnswers = .withheld :: .withheld :: [] := by decide

/-- V35 and V36: 256 and 0xFFFF, no payload byte written. -/
theorem witness_EncodeRejectsLongPayload :
    (toSend 0x01 256 [] []).busy = false ∧ (toSend 0x01 256 [] []).written.txType = true ∧
    (toSend 0x01 256 [] []).written.txLen = true ∧ 255 < (toSend 0x01 256 [] []).txLen.toNat ∧
    255 < (toSend 0x00 0xFFFF [] []).txLen.toNat := by decide

/-- One state for each clause: no typeID, no length, and the second of two payload bytes missing. -/
theorem witness_EncodeFaultsOnUnwrittenOperand :
    State.reset.written.txType = false ∧
    (({ toSend 0 0 [] [] with written := { State.reset.written with txType := true } } : State).written.txLen = false) ∧
    (toSend 0x01 2 [(0, 0x03)] []).written.txType = true ∧ (toSend 0x01 2 [(0, 0x03)] []).written.txLen = true ∧
    (toSend 0x01 2 [(0, 0x03)] []).txLen.toNat ≤ 255 ∧ 1 < (toSend 0x01 2 [(0, 0x03)] []).txLen.toNat ∧
    (∀ j, j < 1 → ((toSend 0x01 2 [(0, 0x03)] []).txPayload.read j).isSome = true) ∧
    (toSend 0x01 2 [(0, 0x03)] []).txPayload.read 1 = none ∧
    (toSend 0x01 255 [] []).txLen.toNat ≤ 255 ∧ (toSend 0x01 255 [] []).txPayload.read 0 = none := by decide

theorem witness_EncodeTouchesOnlyItsOwn : (toSend 0xFE 0 [] [.ok]).dstate = .idle ∧
    (encodeEnd (toSend 0xFE 0 [] [.ok])).isSome = true := by decide +kernel

theorem witness_FrameRoundTrip : ([0x10, 0x03] : List Byte).length ≤ 255 ∧ ([] : List Byte).length ≤ 255 ∧
    (List.replicate 255 (0x10 : Byte)).length ≤ 255 := by decide +kernel

theorem witness_DecodeReceivesTheFrame :
    (toReceive (bytesOf [0x10, 0xFE, 0x00, 0x02, 0x10, 0x03, 0x10, 0xFE])).busy = false ∧
    ([] : List Byte).length ≤ 255 ∧
    (toReceive (bytesOf [0x10, 0xFE, 0x00, 0x02, 0x10, 0x03, 0x10, 0xFE])).rxStream
      = (encodeFrame 0xFE []).map .byte ++ bytesOf [0x10, 0xFE] := by decide +kernel

/-- The four field states; then V46, whose checksum is the pair `10 55`. -/
theorem witness_DecodeIgnoresSecondByteOfPairs :
    (∀ d ∈ [DState.readType, .readLen, .readPayload, .readChecksum], d.isField = true) ∧
    State.reset.esc = false ∧ ([] : List (Byte × Byte)).length = ((0x00 : Byte), (0 : Byte)).1.toNat ∧
    frameSum (0xF0, 0) (0x00, 0) [] (0x10, 0x55) = 0 ∧
    (toReceive (bytesOf [0x10, 0xF0, 0x00, 0x10, 0x55, 0x10, 0x03])).rxStream
      = (frameHead (0xF0, 0) (0x00, 0) [] (0x10, 0x55) ++ [Config.dle, Config.etx]).map .byte ++ [] := by
  decide +kernel

/-- V55, whose sum is 1, and V20, whose sum is 0. -/
theorem witness_DecodeReportsChecksumMismatch :
    ([] : List (Byte × Byte)).length = ((0x00 : Byte), (0 : Byte)).1.toNat ∧
    (toReceive (bytesOf [0x10, 0xFE, 0x00, 0x03, 0x10, 0x03])).rxStream
      = (frameHead (0xFE, 0) (0x00, 0) [] (0x03, 0)).map .byte ++ bytesOf [0x10, 0x03] ∧
    frameSum (0xFE, 0) (0x00, 0) [] (0x03, 0) ≠ 0 ∧ frameSum (0xFE, 0) (0x00, 0) [] (0x02, 0) = 0 ∧
    (after (exec .decode (toReceive (bytesOf [0x10, 0xFE, 0x00, 0x02, 0x10, 0x03]))) State.busy) = some false := by
  decide +kernel

/-- The six ends after a good checksum (V60 to V65 and a Fail in each place). -/
theorem witness_DecodeTerminatorErrors :
    (∀ tail ∈ [[RxItem.byte 0x00, .byte 0x03], [.fail], [], [.byte 0x10, .byte 0x10, .byte 0x03],
        [.byte 0x10, .fail], [.byte 0x10]],
      (toReceive (bytesOf [0x10, 0xFE, 0x00, 0x02] ++ tail)).rxStream
        = (frameHead (0xFE, 0) (0x00, 0) [] (0x02, 0)).map .byte ++ tail) ∧
    ([] : List (Byte × Byte)).length = ((0x00 : Byte), (0 : Byte)).1.toNat ∧
    frameSum (0xFE, 0) (0x00, 0) [] (0x02, 0) = 0 ∧ (0x00 : Byte) ≠ 0x10 ∧ (0x10 : Byte) ≠ 0x03 ∧
    State.reset.busy = false := by decide +kernel

/-- V52, a Fail, and V50. -/
theorem witness_DecodeStartErrors :
    (toReceive (bytesOf [0x03, 0x10])).rxStream = .byte 0x03 :: bytesOf [0x10] ∧ (0x03 : Byte) ≠ 0x10 ∧
    (toReceive [.fail, .byte 0x10]).rxStream = .fail :: bytesOf [0x10] ∧
    (toReceive []).rxStream = [] ∧ (toReceive []).busy = false := by decide

/-- The empty part and the part that lacks only the ETX (V62). -/
theorem witness_TruncatedFrameIsTransportError : ([] : List Byte).length ≤ 255 ∧
    0 < (encodeFrame 0xFE []).length ∧ 5 < (encodeFrame 0xFE []).length := by decide +kernel

/-- V59: the checksum 0x02 becomes 0x10. -/
theorem witness_CorruptedChecksumIsDetected : ([] : List Byte).length ≤ 255 ∧
    (0x10 : Byte) ≠ packetChecksum 0xFE [] := by decide

theorem witness_StepTableMatchesAlgorithm :
    (toReceive (bytesOf [0x10, 0xFE, 0x00, 0x02, 0x10, 0x03])).busy = false ∧
    neverWithheld (toReceive (bytesOf [0x10, 0xFE, 0x00, 0x02, 0x10, 0x03])).rxStream := by
  unfold neverWithheld; decide

theorem witness_DecodeAcceptsOnlyFrames :
    after (exec .decode (toReceive (bytesOf [0x10, 0xFE, 0x00, 0x02, 0x10, 0x03]))) State.rxValid = some true := by
  decide +kernel

theorem witness_DecodeEndsWithOneStatus :
    (toReceive (bytesOf [0x10, 0x10])).busy = false ∧ neverWithheld (toReceive (bytesOf [0x10, 0x10])).rxStream := by
  unfold neverWithheld; decide

/-- Runs that end, that fail and that wait all answer a next state. -/
theorem witness_DecodeConsumesALeadingRun :
    (decodeEnd (toReceive (bytesOf [0x00]))).isSome = true ∧ (decodeEnd (toReceive [.fail])).isSome = true ∧
    (decodeEnd (toReceive [.byte 0x10, .withheld])).isSome = true := by decide +kernel

theorem witness_DecodeChangesOnlyItsOwn : (decodeEnd (toReceive (bytesOf [0x10, 0x01, 0x01, 0x03]))).isSome = true := by
  decide +kernel

/-- Two states that differ beside the stream. -/
theorem witness_DecodeDependsOnlyOnTheStream :
    (toReceive [.byte 0x10]).rxStream = ({ toSend 0x01 1 [] [] with rxStream := [.byte 0x10] } : State).rxStream ∧
    (decodeEnd (toReceive [.byte 0x10])).isSome = true ∧
    (decodeEnd { toSend 0x01 1 [] [] with rxStream := [.byte 0x10] }).isSome = true := by decide +kernel

theorem witness_WaitingDecodeGoesOn :
    (toReceive (bytesOf [0x10, 0xFE] ++ .withheld :: bytesOf [0x00])).busy = false ∧
    RxItem.withheld ∉ bytesOf [0x10, 0xFE] ∧
    after (exec .decode (toReceive (bytesOf [0x10, 0xFE] ++ .withheld :: bytesOf [0x00]))) State.busy = some true := by
  decide +kernel

theorem witness_HostReadsBackWhatItWrote : ∀ p ∈ [(Reg.txType, (0xFF : LenWord)), (.txLen, 0xFFFF),
      (.txPayload 0, 0x10), (.txPayload 254, 0)],
    State.reset.busy = false ∧ p.1.hostWritable = true ∧ p.1.hostReadable = true ∧ p.1.fits p.2 = true := by decide

theorem witness_HostWriteOfDin : State.reset.busy = false := by decide

/-- Reset, then every readable register holding a value of its own: a packet `[0x11]` of type 0x22 received, a STATUS
of 4, a CK_RESULT of 0x33, and the operands of a send with TX_PAYLOAD[254] written. -/
def allHeld : State :=
  { toSend 0x44 0x155 [(254, 0x66)] [] with
    status := .transportError, ckResult := 0x33, rxValid := true, rxType := 0x22, rxLen := 1, rxPayload := ⟨[(0, 0x11)]⟩
    written := ⟨true, true, true, true, true⟩ }

/-- Every clause for a value, in one state; then every clause for a fault, in the reset state, with the two other ways
for an RX_PAYLOAD byte to hold none. -/
theorem witness_UnspecifiedRegistersFault :
    allHeld.busy = false ∧ allHeld.written = ⟨true, true, true, true, true⟩ ∧ allHeld.rxValid = true ∧
    allHeld.txPayload.read 254 = some 0x66 ∧ 0 < allHeld.rxLen.toNat ∧ allHeld.rxPayload.read 0 = some 0x11 ∧
    State.reset.busy = false ∧ State.reset.written = ⟨false, false, false, false, false⟩ ∧
    State.reset.rxValid = false ∧ State.reset.txPayload.read 0 = none ∧ State.reset.txPayload.read 254 = none ∧
    allHeld.rxLen.toNat ≤ 1 ∧ allHeld.rxLen.toNat ≤ 254 ∧
    ({ allHeld with rxPayload := ⟨[]⟩ } : State).rxPayload.read 0 = none := by decide

/-- A host read of a result register answers that register's own value (R21). -/
theorem test_reads_results : after (runSteps 4 { allHeld with
      inputs := [.hostRead 0x02, .hostRead 0x04, .hostRead 0x08, .hostRead 0x200] }) State.hostReads
    = some [(0x02, 4), (0x04, 0x33), (0x08, 0x22), (0x200, 0x11)] := by decide +kernel

theorem witness_AccessesWhileBusyRefused : decodeWaits.busy = true ∧ encodeWaits.busy = true ∧
    Reg.din.hostWritable = true ∧
    Reg.rxType.hostReadable = true ∧ Reg.rxType ≠ .status ∧ Reg.rxType ≠ .busy ∧ Reg.rxType ≠ .ckResult := by decide

/-- A waiting ENCODE meets the invariant: it is not only the reset state that does. -/
theorem witness_StopsAreExactlyTheListedEvents : encodeWaits.Inv where
  txPayload_wf := by decide
  rxPayload_wf := by decide
  frameBuf_wf := by decide
  idle_between := fun _ => rfl
  not_verify := by decide
  not_done := by decide
  no_packet_while_decoding := by decide
  packet_held := by decide
  counter_in_range := by decide
  counted_held := by decide
  payload_held := by decide
  esc_in_field := by decide
  frame_held := by decide
  read_waits := by decide
  write_waits := by decide

theorem witness_EveryEndedCommandLeavesAStatus :
    (encodeEnd (toSend 0x01 256 [] [])).map (fun r => (r.1, r.2.1)) = some (.payloadTooLarge, false) ∧
    (decodeEnd (toReceive (bytesOf [0x00]))).map (·.1) = some .framingError ∧
    (decodeEnd (toReceive (bytesOf [0x10, 0xFE, 0x00, 0x03]))).map (·.1) = some .checksumMismatch ∧
    encodeWaits.busy = true ∧
    after (transportWake { encodeWaits with txAnswers := [.withheld, .ok] }) State.busy = some false ∧
    decodeWaits.busy = true ∧
    after (transportWake { decodeWaits with rxStream := [.withheld, .byte 0x00] }) (fun t => (t.busy, t.status))
      = some (false, .framingError) := by decide +kernel

/-- A step that changes each of the four results; then RX_VALID by a waking under a waiting DECODE, and TX_LOG by a waking
and by a reset under a waiting ENCODE. -/
theorem witness_ResultsChangeOnlyByTheirCommands :
    after (step { withAcc 0x01 0 with inputs := [.hostWrite 0x00 0x03] }) State.ckResult = some 0xFF ∧
    after (step { withAcc 0x01 0 with inputs := [.hostWrite 0x00 0x01] }) State.acc = some 0x00 ∧
    after (step { toReceive (bytesOf [0x10, 0xFE, 0x00, 0x02, 0x10, 0x03]) with
      inputs := [.hostWrite 0x00 0x05] }) State.rxValid = some true ∧
    after (step { toSend 0xFE 0 [] [.fail 1] with inputs := [.hostWrite 0x00 0x04] }) State.txLog = some [0x10] ∧
    after (step { decodeWaits with
      rxStream := .withheld :: bytesOf [0x10, 0xFE, 0x00, 0x02, 0x10, 0x03], inputs := [.transportWake] })
      State.rxValid = some true ∧
    after (step { encodeWaits with txAnswers := [.withheld, .fail 1], inputs := [.transportWake] })
      State.txLog = some [0x10] ∧
    after (step { encodeWaits with inputs := [.hardReset 1] }) State.txLog = some [0x10] := by
  decide +kernel

theorem witness_TransportStreamsAreOneWay :
    after (step { toReceive (bytesOf [0x00, 0x01]) with inputs := [.hostWrite 0x00 0x05] }) State.rxStream
      = some (bytesOf [0x01]) := by decide +kernel

/-- A reset of an idle block, of a waiting DECODE and of a waiting ENCODE with its frame. -/
theorem witness_HardResetResult :
    (script [.hardReset 0]).inputs = .hardReset 0 :: [] ∧ (script [.hardReset 0]).busy = false ∧
    ({ decodeWaits with inputs := [.hardReset 0] } : State).dstate ≠ .idle ∧
    ({ encodeWaits with inputs := [.hardReset 2] } : State).inputs = .hardReset 2 :: [] ∧
    ({ encodeWaits with inputs := [.hardReset 2] } : State).busy = true ∧
    ({ encodeWaits with inputs := [.hardReset 2] } : State).dstate = .idle ∧
    (frameBytes { encodeWaits with inputs := [.hardReset 2] }).toOption
      = some [0x10, 0xFE, 0x00, 0x02, 0x10, 0x03] := by decide +kernel

/-- A state that meets the invariant and steps: the waiting ENCODE, which goes on waiting. -/
theorem witness_StepKeepsInvariant : encodeWaits.Inv ∧ step encodeWaits = .next encodeWaits :=
  ⟨witness_StopsAreExactlyTheListedEvents, rfl⟩

theorem witness_PseudoInstructionExpansions : ([0x10, 0x03] : List Byte).length ≤ 255 ∧
    (List.replicate 255 (0 : Byte)).length ≤ 255 ∧ 255 < (List.replicate 256 (0 : Byte)).length ∧
    AsmLine.wf (.absorb 0xFE) = true ∧ (AsmLine.expand (.absorb 0xFE)).isSome = true := by decide +kernel

end Sys2Proof.Tests
end

section
/-! The register map of R21 by number, and the two refusals the host's port decides before it looks at BUSY or at the
value (log 10): an unassigned number and a wrong direction. -/

namespace Sys2Proof.Proofs

open Sys2Proof.Machine

/-- A register is found under its own number. -/
@[simp] theorem ofNumber_number (r : Reg) : Reg.ofNumber r.number = some r := by
  cases r with
  | txPayload i =>
    have hi : i.val < 255 := i.isLt
    have hrange : 0x100 ≤ 0x100 + i.val ∧ 0x100 + i.val < 0x1FF := by omega
    simp [Reg.ofNumber, Reg.number, hrange]
  | rxPayload i =>
    have hi : i.val < 255 := i.isLt
    have htx : ¬ (0x100 ≤ 0x200 + i.val ∧ 0x200 + i.val < 0x1FF) := by omega
    have hrange : 0x200 ≤ 0x200 + i.val ∧ 0x200 + i.val < 0x2FF := by omega
    simp [Reg.ofNumber, Reg.number, htx, hrange]
  | _ => rfl

/-- The scalar registers are numbered 0x00 to 0x09 (R21). -/
theorem scalar_eq_none_iff (num : Nat) : Reg.scalar num = none ↔ 0x0A ≤ num := by
  match num with
  | 0 | 1 | 2 | 3 | 4 | 5 | 6 | 7 | 8 | 9 => decide
  | n + 10 => simp [Reg.scalar]

/-- The numbers R21 leaves unassigned: above the scalar registers, after each payload buffer, and past the map. -/
theorem ofNumber_eq_none_iff (num : Nat) :
    Reg.ofNumber num = none ↔
      (0x0A ≤ num ∧ num ≤ 0xFF) ∨ num = 0x1FF ∨ num = 0x2FF ∨ 0x2FF < num := by
  unfold Reg.ofNumber
  split
  next htx => simp only [reduceCtorEq, false_iff]; omega
  next htx =>
    split
    next hrx => simp only [reduceCtorEq, false_iff]; omega
    next hrx => rw [scalar_eq_none_iff]; omega

/-- R21's write-only registers are CMD and DIN. -/
theorem exists_writeOnly_of_number {num : Nat} (h : num = 0x00 ∨ num = 0x01) :
    ∃ r : Reg, r.number = num ∧ r.hostReadable = false := by
  obtain rfl | rfl := h
  · exact ⟨.cmd, rfl, rfl⟩
  · exact ⟨.din, rfl, rfl⟩

/-- R21's read-only registers: the results below 0x100 and RX_PAYLOAD. -/
theorem exists_readOnly_of_number {num : Nat}
    (h : num ∈ [0x02, 0x03, 0x04, 0x07, 0x08, 0x09] ∨ (0x200 ≤ num ∧ num ≤ 0x2FE)) :
    ∃ r : Reg, r.number = num ∧ r.hostWritable = false := by
  obtain hscalar | ⟨hlow, hhigh⟩ := h
  · simp only [List.mem_cons, List.not_mem_nil, or_false] at hscalar
    obtain rfl | rfl | rfl | rfl | rfl | rfl := hscalar
    · exact ⟨.status, rfl, rfl⟩
    · exact ⟨.busy, rfl, rfl⟩
    · exact ⟨.ckResult, rfl, rfl⟩
    · exact ⟨.rxValid, rfl, rfl⟩
    · exact ⟨.rxType, rfl, rfl⟩
    · exact ⟨.rxLen, rfl, rfl⟩
  · exact ⟨.rxPayload ⟨num - 0x200, by omega⟩, Nat.add_sub_cancel' hlow, rfl⟩

theorem hostWrite_of_unassigned {num : Nat} (h : Reg.ofNumber num = none) (v : LenWord) (s : State) :
    hostWrite num v s = .refused (.unassignedRegister num) := by
  simp [hostWrite, h]

theorem hostRead_of_unassigned {num : Nat} (h : Reg.ofNumber num = none) (s : State) :
    hostRead num s = .refused (.unassignedRegister num) := by
  simp [hostRead, h]

/-- The wrong direction is decided before BUSY and before the value's width (log 10). -/
theorem hostWrite_of_readOnly {r : Reg} (h : r.hostWritable = false) (v : LenWord) (s : State) :
    hostWrite r.number v s = .refused (.readOnlyRegister r.number) := by
  simp [hostWrite, h]

/-- The wrong direction is decided before BUSY (log 10). -/
theorem hostRead_of_writeOnly {r : Reg} (h : r.hostReadable = false) (s : State) :
    hostRead r.number s = .refused (.writeOnlyRegister r.number) := by
  simp [hostRead, h]

/-- Settles O5: each clause names the registers its numbers stand for, then cites the port's rule for them. -/
theorem hostAccessesOutsideTheTableRefused : Obligations.HostAccessesOutsideTheTableRefused := by
  intro s num v
  refine ⟨fun hnum => ?unassigned, fun hnum => ?writeOnly, fun hnum => ?readOnly⟩
  case unassigned =>
    have hnone : Reg.ofNumber num = none := (ofNumber_eq_none_iff num).2 hnum
    exact ⟨hostWrite_of_unassigned hnone v s, hostRead_of_unassigned hnone s⟩
  case writeOnly =>
    obtain ⟨r, rfl, hdir⟩ := exists_writeOnly_of_number hnum
    exact hostRead_of_writeOnly hdir s
  case readOnly =>
    obtain ⟨r, rfl, hdir⟩ := exists_readOnly_of_number hnum
    exact hostWrite_of_readOnly hdir v s

end Sys2Proof.Proofs
end

section
/-! The length of a frame (R85) and why it fits FRAME_BUF (R11, R35), and what ENCODE does once its operands are
written (R125): the frame is built whole, and the one `TxWrite` ends the command or leaves it waiting. -/

namespace Sys2Proof.Proofs

open Sys2Proof.Machine

/-! The length of a frame -/

theorem dleCount_nil : dleCount [] = 0 := rfl

theorem dleCount_cons (b : Byte) (bs : List Byte) :
    dleCount (b :: bs) = dleCount bs + if b = Config.dle then 1 else 0 := by
  simp [dleCount, List.countP_cons]

theorem dleCount_le_length (bs : List Byte) : dleCount bs ≤ bs.length := List.countP_le_length

/-- Every value counts exactly when every value is DLE. -/
theorem dleCount_eq_length_iff (bs : List Byte) : dleCount bs = bs.length ↔ ∀ b ∈ bs, b = Config.dle := by
  simp [dleCount, List.countP_eq_length]

/-- Escaping costs one physical byte for each value, and one more for each DLE (R81). -/
theorem flatMap_escapeByte_length (bs : List Byte) :
    (bs.flatMap escapeByte).length = bs.length + dleCount bs := by
  induction bs with
  | nil => rfl
  | cons b bs ih =>
    rw [List.flatMap_cons, List.length_append, ih, escapeByte_length, dleCount_cons, List.length_cons]
    split <;> omega

/-- A frame is its escaped fields between the start DLE and the two terminators (R80). -/
theorem encodeFrame_eq_flatMap (t : Byte) (p : List Byte) :
    encodeFrame t p =
      [Config.dle] ++ ([t, BitVec.ofNat 8 p.length] ++ p ++ [packetChecksum t p]).flatMap escapeByte
        ++ [Config.dle, Config.etx] := by
  simp [encodeFrame]

/-- The frame has the length R85 gives it. -/
theorem encodeFrame_length (t : Byte) (p : List Byte) : (encodeFrame t p).length = frameLength t p := by
  simp only [encodeFrame_eq_flatMap, frameLength, List.length_append, flatMap_escapeByte_length,
    List.length_cons, List.length_nil]
  omega

theorem sum8_replicate (n : Nat) (b : Byte) : sum8 (List.replicate n b) = BitVec.ofNat 8 n * b := by
  induction n with
  | zero => simp [sum8]
  | succ n ih =>
    rw [List.replicate_succ, sum8, ih, add8, BitVec.ofNat_add, BitVec.add_mul]
    simp [BitVec.add_comm]

/-- The longest payload cannot be DLE throughout under type DLE and have the checksum DLE as well. -/
theorem packetChecksum_all_dle : packetChecksum Config.dle (List.replicate 255 Config.dle) ≠ Config.dle := by
  rw [packetChecksum, sum8_replicate, List.length_replicate]
  decide

/-- With 255 payload bytes typeID, payload and checksum are not all DLE: the checksum of such a packet is another
value. -/
theorem dleCount_longest_lt {t : Byte} {p : List Byte} (hp : p.length = 255) :
    dleCount (t :: p ++ [packetChecksum t p]) < 257 := by
  have hlen : (t :: p ++ [packetChecksum t p]).length = 257 := by simp [hp]
  refine lt_of_le_of_ne (hlen ▸ dleCount_le_length _) fun hall => ?_
  have hdle := (dleCount_eq_length_iff _).mp (hall.trans hlen.symm)
  have ht : t = Config.dle := hdle t (by simp)
  have hpay : p = List.replicate 255 Config.dle :=
    List.eq_replicate_iff.mpr ⟨hp, fun b hb => hdle b (by simp [hb])⟩
  have hck : packetChecksum t p = Config.dle := hdle _ (by simp)
  rw [ht, hpay] at hck
  exact packetChecksum_all_dle hck

/-- No frame is longer than FRAME_BUF (R11). With fewer than 255 payload bytes every value may be DLE; with 255 the
length byte is not, and one more value is not. -/
theorem encodeFrame_length_le {t : Byte} {p : List Byte} (hp : p.length ≤ Config.maxPayload) :
    (encodeFrame t p).length ≤ Config.frameBufSize := by
  have hmax : Config.maxPayload = 255 := rfl
  have hsize : Config.frameBufSize = 517 := rfl
  have hsplit : dleCount ([t, BitVec.ofNat 8 p.length] ++ p ++ [packetChecksum t p])
      = dleCount [BitVec.ofNat 8 p.length] + dleCount (t :: p ++ [packetChecksum t p]) := by
    simp only [List.cons_append, List.nil_append, dleCount_cons, dleCount_nil]
    omega
  rw [encodeFrame_length, frameLength, hsplit]
  obtain hlt | heq : p.length < 255 ∨ p.length = 255 := by omega
  · have hn := dleCount_le_length [BitVec.ofNat 8 p.length]
    have hrest := dleCount_le_length (t :: p ++ [packetChecksum t p])
    simp only [List.length_cons, List.length_append, List.length_nil] at hn hrest
    omega
  · have hn : dleCount [BitVec.ofNat 8 p.length] = 0 := by rw [heq]; rfl
    have hrest := dleCount_longest_lt (t := t) heq
    omega

/-! ENCODE with its operands written -/

@[simp] theorem buildFrame_busy (t : Byte) (p : List Byte) (s : State) : (buildFrame t p s).busy = s.busy := by
  rw [buildFrame_frame]

@[simp] theorem buildFrame_status (t : Byte) (p : List Byte) (s : State) :
    (buildFrame t p s).status = s.status := by
  rw [buildFrame_frame]

@[simp] theorem buildFrame_txLog (t : Byte) (p : List Byte) (s : State) :
    (buildFrame t p s).txLog = s.txLog := by
  rw [buildFrame_frame]

/-- ENCODE whose operands hold values builds its frame and hands it to the transport (R125). -/
theorem exec_encode_of_operands {s : State} {p : List Byte} (hidle : s.busy = false)
    (htype : s.written.txType = true) (hlenWritten : s.written.txLen = true)
    (hmax : s.txLen.toNat ≤ Config.maxPayload) (hlen : p.length = s.txLen.toNat)
    (hbytes : ∀ i (h : i < p.length), s.txPayload.read i = some p[i]) :
    exec .encode s = sendFrame (buildFrame s.txType p { s with busy := true }) := by
  have hpayload : readTxPayload s.txLen.toNat { s with busy := true } = .ok p :=
    Memory.readRange_eq_ok.mpr ⟨hlen, fun k hk => by simpa using hbytes k hk⟩
  calc exec .encode s
      = execEncode s := rfl
    _ = withOperand (readTxPayload s.txLen.toNat { s with busy := true }) fun p =>
          sendFrame (buildFrame s.txType p { s with busy := true }) := by
        simp [execEncode, issue_idle hidle, readTxType, readTxLen, readMarked, htype, hlenWritten,
          Nat.not_lt.mpr hmax]
    _ = sendFrame (buildFrame s.txType p { s with busy := true }) := by rw [hpayload, withOperand_ok]

/-- The ends of a frame's write, one for each way the transport can answer (R53, R127, R219). -/
theorem sendFrame_outcomes {s : State} {f : List Byte} (hf : frameBytes s = .ok f) :
    ∃ t, sendFrame s = .next t ∧
      ((t.busy = false ∧ t.status = .ok ∧ t.txLog = s.txLog ++ f) ∨
       (t.busy = false ∧ t.status = .transportError ∧ ∃ sent, t.txLog = s.txLog ++ f.take sent) ∨
       (t.busy = s.busy ∧ t.status = s.status ∧ t.txLog = s.txLog ∧
        t.txAnswers.head? = some .withheld)) := by
  rw [sendFrame, hf, withOperand_ok]
  refine ⟨_, rfl, ?_⟩
  obtain ⟨sent, k, hw⟩ | ⟨k, hw⟩ | ⟨k, hw⟩ := txWrite_cases f s
  case inl => rw [hw]; exact .inr (.inl ⟨rfl, rfl, sent, rfl⟩)
  case inr.inl => rw [hw]; exact .inl ⟨rfl, rfl, rfl⟩
  case inr.inr => rw [hw]; exact .inr (.inr ⟨rfl, rfl, rfl, rfl⟩)

/-- Settles O19: the operands give a frame that fits FRAME_BUF, so its write is reached with the whole frame, and
each answer of the transport has its end. -/
theorem encodeOutcomes : Obligations.EncodeOutcomes := by
  intro s p hidle htype hlenWritten hmax hlen hbytes
  have hfit : (encodeFrame s.txType p).length ≤ Config.frameBufSize :=
    encodeFrame_length_le (hlen.trans_le hmax)
  rw [exec_encode_of_operands hidle htype hlenWritten hmax hlen hbytes]
  simpa using sendFrame_outcomes (frameBytes_buildFrame { s with busy := true } hfit)

end Sys2Proof.Proofs
end

section
/-! The command words (R70, R71, R73): the decoder inverts the encoder, so the reserved words are those outside the
encoder's range, and the host's port refuses them. -/

namespace Sys2Proof.Proofs

open Sys2Proof.Machine

/-! The decoder -/

/-- CMD is made of its two fields and nothing else (R70). -/
theorem toNat_eq_fields (w : Byte) : w.toNat = 16 * (zeroField w).toNat + (opField w).toNat := by
  simp only [zeroField, opField, BitVec.extractLsb'_toNat]
  omega

theorem decodeCommand_encodeCommand (i : Instr) : decodeCommand (encodeCommand i) = .ok i := by
  cases i <;> rfl

/-- With ZERO = 0 the word is OP, and each OP that decodes is the word of its command. -/
theorem eq_encodeCommand_of_decodeCommand {w : Byte} {i : Instr} (h : decodeCommand w = .ok i) :
    w = encodeCommand i := by
  have hfields := toNat_eq_fields w
  unfold decodeCommand at h
  split at h
  next hzero =>
    rw [hzero] at hfields
    split at h <;> cases h
    all_goals
      next hop =>
        rw [hop] at hfields
        exact BitVec.eq_of_toNat_eq hfields
  next => cases h

/-- A word decodes to a command exactly when it is that command's word. -/
theorem decodeCommand_eq_ok_iff {w : Byte} {i : Instr} : decodeCommand w = .ok i ↔ w = encodeCommand i :=
  ⟨eq_encodeCommand_of_decodeCommand, fun h => h ▸ decodeCommand_encodeCommand i⟩

theorem encodeCommand_toNat_bounds (i : Instr) : 1 ≤ (encodeCommand i).toNat ∧ (encodeCommand i).toNat ≤ 5 := by
  cases i <;> decide

/-- A word outside 1 to 5 is no command's word, so it does not decode (R73). -/
theorem decodeCommand_of_reserved {w : Byte} (h : w.toNat = 0 ∨ 6 ≤ w.toNat) :
    ∃ e, decodeCommand w = .error e := by
  cases hw : decodeCommand w with
  | error e => exact ⟨e, rfl⟩
  | ok i =>
    have hbounds := encodeCommand_toNat_bounds i
    rw [← decodeCommand_eq_ok_iff.mp hw] at hbounds
    omega

/-- Settles O1: R71's table is the graph of the encoder, which the decoder inverts. -/
theorem commandWordsAreExactlyFive : Obligations.CommandWordsAreExactlyFive := by
  intro w i
  rw [decodeCommand_eq_ok_iff]
  cases i <;> simp [encodeCommand]

/-! A command word at the host's port -/

/-- A byte survives the widening of a host write. -/
@[simp] theorem setWidth_lenW_setWidth_byte (b : Byte) : (b.setWidth Config.lenW).setWidth 8 = b :=
  BitVec.setWidth_setWidth_of_le b (by decide)

/-- A byte fits every 8-bit register (R79). -/
theorem fits_byte {r : Reg} (hwidth : r.width = 8) (b : Byte) : r.fits (b.setWidth Config.lenW) = true := by
  simp only [Reg.fits, hwidth, decide_eq_true_eq, BitVec.toNat_setWidth]
  exact (Nat.mod_le _ _).trans_lt b.isLt

/-- The port passes a write on when the register admits it, BUSY = 0 and the value fits. -/
theorem hostWrite_of_admitted {r : Reg} {v : LenWord} {s : State} (hdir : r.hostWritable = true)
    (hidle : s.busy = false) (hfits : r.fits v = true) : hostWrite r.number v s = writeReg r v s := by
  simp [hostWrite, hdir, hidle, hfits]

/-- In an idle state a byte written to CMD is taken as a command word (R25, R70). -/
theorem hostWrite_cmd {s : State} (hidle : s.busy = false) (w : Byte) :
    hostWrite 0x00 (w.setWidth Config.lenW) s = runCommand w s :=
  calc hostWrite 0x00 (w.setWidth Config.lenW) s
      = writeReg .cmd (w.setWidth Config.lenW) s := hostWrite_of_admitted (r := .cmd) rfl hidle (fits_byte rfl w)
    _ = runCommand w s := by rw [writeReg, setWidth_lenW_setWidth_byte]

theorem runCommand_of_error {w : Byte} {e : DecodeError} (h : decodeCommand w = .error e) (s : State) :
    runCommand w s = .refused (.reservedCommand w) := by
  rw [runCommand, h]

theorem step_of_inputs {s : State} {a : Input} {rest : List Input} (h : s.inputs = a :: rest) :
    step s = perform a { s with inputs := rest } := by
  rw [step, h]

/-- Settles O3: the word reaches `runCommand`, and it decodes to nothing. -/
theorem reservedWordsAreRefused : Obligations.ReservedWordsAreRefused := by
  intro s w rest hidle hreserved hinputs
  obtain ⟨e, herror⟩ := decodeCommand_of_reserved hreserved
  calc step s
      = hostWrite 0x00 (w.setWidth Config.lenW) { s with inputs := rest } := step_of_inputs hinputs
    _ = runCommand w { s with inputs := rest } := hostWrite_cmd (s := { s with inputs := rest }) hidle w
    _ = .refused (.reservedCommand w) := runCommand_of_error herror _

end Sys2Proof.Proofs
end

section
/-! The expansion of the written lines (R77, R78): the payload's writes by index, and that every input of a well-formed
line is one the idle block admits (R21, R73, R79). -/

namespace Sys2Proof.Proofs

open Sys2Proof.Machine

/-! The payload's writes -/

@[simp] theorem payloadInputs_length (start : Nat) (ps : List Byte) :
    (payloadInputs start ps).length = ps.length := by
  induction ps generalizing start with
  | nil => rfl
  | cons p ps ih => simp [payloadInputs, ih]

/-- The i-th payload byte goes to the i-th register from `start` on. -/
theorem payloadInputs_getElem (start : Nat) (ps : List Byte) (i : Nat) (h : i < ps.length) :
    (payloadInputs start ps)[i]? = some (.hostWrite (0x100 + (start + i)) (ps[i].setWidth Config.lenW)) := by
  induction ps generalizing start i with
  | nil => cases h
  | cons p ps ih =>
    cases i with
    | zero => rfl
    | succ i =>
      have htail := ih (start + 1) i (Nat.lt_of_succ_lt_succ h)
      rw [Nat.add_right_comm] at htail
      exact htail

/-! Well-formed inputs -/

theorem setReg_wf (r : Reg) (v : LenWord) : (setReg r v).wf = writeWf r v := by
  simp [setReg, Input.wf]

theorem get_wf {r : Reg} (h : r.hostReadable = true) : (Input.hostRead r.number).wf = true := by
  simpa [Input.wf] using h

/-- A byte written to an 8-bit register other than CMD needs no more than R21's leave. -/
theorem setByte_wf {r : Reg} (hdir : r.hostWritable = true) (hwidth : r.width = 8) (hcmd : r ≠ .cmd) (b : Byte) :
    (setByte r b).wf = true := by
  rw [setByte, setReg_wf]
  simp [writeWf, hdir, fits_byte hwidth, hcmd]

/-- TX_LEN is as wide as the value written to it (R29). -/
theorem setTxLen_wf (v : LenWord) : (setReg .txLen v).wf = true := by
  have hfits : Reg.fits .txLen v = true := decide_eq_true v.isLt
  rw [setReg_wf]
  simp [writeWf, hfits, Reg.hostWritable]

/-- The word a mnemonic writes to CMD is one of the five (R73). -/
theorem issueInput_wf (i : Instr) : (issueInput i).wf = true := by
  rw [issueInput, setByte, setReg_wf]
  simp [writeWf, Reg.hostWritable, fits_byte (r := .cmd) rfl, decodeCommand_encodeCommand, Except.isOk,
    Except.toBool]

theorem absorbInputs_wf {b : Byte} {x : Input} (hx : x ∈ absorbInputs b) : x.wf = true := by
  simp only [absorbInputs, List.mem_cons, List.not_mem_nil, or_false] at hx
  obtain rfl | rfl := hx
  · exact setByte_wf (r := .din) rfl rfl nofun b
  · exact issueInput_wf .ckAbsorb

/-- Payload writes that end within TX_PAYLOAD each name one of its registers. -/
theorem payloadInputs_wf {start : Nat} {ps : List Byte} (hfit : start + ps.length ≤ Config.maxPayload) {x : Input}
    (hx : x ∈ payloadInputs start ps) : x.wf = true := by
  induction ps generalizing start with
  | nil => cases hx
  | cons p ps ih =>
    have hmax : Config.maxPayload = 255 := rfl
    rw [List.length_cons] at hfit
    obtain rfl | htail := List.mem_cons.mp hx
    · exact setByte_wf (r := .txPayload ⟨start, by omega⟩) rfl rfl nofun p
    · exact ih (by omega) htail

/-! The lines -/

theorem expand_send_of_le {ps : List Byte} (h : ps.length ≤ Config.maxPayload) (t : Byte) :
    AsmLine.expand (.send t ps) =
      some ([setByte .txType t, setReg .txLen (BitVec.ofNat Config.lenW ps.length)]
        ++ payloadInputs 0 ps ++ [issueInput .encode]) := if_pos h

theorem expand_send_of_gt {ps : List Byte} (h : Config.maxPayload < ps.length) (t : Byte) :
    AsmLine.expand (.send t ps) = none := if_neg (Nat.not_le.mpr h)

/-- A well-formed line expands to inputs the idle block admits. -/
theorem expand_wf {l : AsmLine} {xs : List Input} (hl : l.wf = true) (hexp : l.expand = some xs) {x : Input}
    (hx : x ∈ xs) : x.wf = true := by
  cases l with
  | set r v =>
    cases hexp
    rw [List.mem_singleton.mp hx, setReg_wf]
    exact hl
  | get r =>
    cases hexp
    rw [List.mem_singleton.mp hx]
    exact get_wf hl
  | command i =>
    cases hexp
    rw [List.mem_singleton.mp hx]
    exact issueInput_wf i
  | absorb b =>
    cases hexp
    exact absorbInputs_wf hx
  | sum bs =>
    cases hexp
    obtain rfl | hx := List.mem_cons.mp hx
    · exact issueInput_wf .ckReset
    · obtain ⟨b, -, hx⟩ := List.mem_flatMap.mp hx
      exact absorbInputs_wf hx
  | send t ps =>
    have hlen : ps.length ≤ Config.maxPayload := of_decide_eq_true hl
    rw [expand_send_of_le hlen] at hexp
    cases hexp
    simp only [List.mem_append, List.mem_cons, List.not_mem_nil, or_false] at hx
    obtain ((rfl | rfl) | hx) | rfl := hx
    · exact setByte_wf (r := .txType) rfl rfl nofun t
    · exact setTxLen_wf _
    · exact payloadInputs_wf (by omega) hx
    · exact issueInput_wf .encode

/-- Settles O52: CK.ABSORB and CK.SUM unfold to R78's writes; SEND is split at the size of TX_PAYLOAD. -/
theorem pseudoInstructionExpansions : Obligations.PseudoInstructionExpansions := by
  refine ⟨fun b => rfl, fun bs => rfl, fun t ps hlen => ?send, fun t ps hlen => expand_send_of_gt hlen t,
    fun l xs hl hexp x hx => expand_wf hl hexp hx⟩
  case send =>
    refine ⟨payloadInputs 0 ps, expand_send_of_le hlen t, payloadInputs_length 0 ps, fun i hi => ?_⟩
    rw [payloadInputs_getElem, Nat.zero_add]

end Sys2Proof.Proofs
end

section
/-! The checksum accumulator (R100 to R106): its arithmetic, what each of its three commands answers, and a pass of
CK.ABSORB over a sequence of bytes. -/

namespace Sys2Proof.Proofs

open Sys2Proof.Machine

/-! Byte arithmetic -/

theorem neg8_toNat (a : Byte) : (neg8 a).toNat = (256 - a.toNat) % 256 := by simp [neg8]

theorem add8_neg8 (a : Byte) : add8 a (neg8 a) = 0 := add_sub_cancel a 0

theorem neg8_eq_zero_iff {a : Byte} : neg8 a = 0 ↔ a = 0 :=
  ⟨fun h => by simpa [h] using add8_neg8 a, fun h => by rw [h]; rfl⟩

theorem add8_eq_ofNat (a b : Byte) : add8 a b = BitVec.ofNat 8 ((a.toNat + b.toNat) % 256) := by
  rw [← add8_toNat, BitVec.ofNat_toNat, BitVec.setWidth_eq]

theorem neg8_eq_ofNat (a : Byte) : neg8 a = BitVec.ofNat 8 ((256 - a.toNat) % 256) := by
  rw [← neg8_toNat, BitVec.ofNat_toNat, BitVec.setWidth_eq]

/-- The sum does not see the order of the bytes. -/
theorem sum8_perm {as bs : List Byte} (h : as.Perm bs) : sum8 as = sum8 bs := by
  induction h with
  | nil => rfl
  | cons b _ ih => rw [sum8, sum8, ih]
  | swap a b cs => simp only [sum8, ← add8_assoc, add8_comm a b]
  | trans _ _ ih₁ ih₂ => exact ih₁.trans ih₂

/-- Settles O11: the sum is addition of bytes and the negation its inverse. -/
theorem accumulatorArithmetic : Obligations.AccumulatorArithmetic :=
  ⟨add8_toNat, neg8_toNat, add8_comm, add8_assoc, add8_neg8, fun _ => neg8_eq_zero_iff, rfl⟩

/-! The three commands -/

theorem readDin_of_written {s : State} (h : s.written.din = true) : readDin s = .ok s.din := by
  simp [readDin, readMarked, h]

theorem readDin_of_unwritten {s : State} (h : s.written.din = false) :
    readDin s = .error (.unspecifiedRead 0x01) := by
  simp [readDin, readMarked, h, Reg.number]

/-- Each accumulator command is refused while another command runs (R106, R189). -/
theorem exec_accumulator_of_busy {i : Instr} {s : State} (hi : i = .ckReset ∨ i = .ckAbsorb ∨ i = .ckFinalize)
    (hbusy : s.busy = true) : exec i s = .refused .commandWhileBusy := by
  obtain rfl | rfl | rfl := hi
  case inl => rw [exec, execCkReset, issue_busy hbusy]
  case inr.inl => rw [exec, execCkAbsorb, issue_busy hbusy]
  case inr.inr => rw [exec, execCkFinalize, issue_busy hbusy]

theorem exec_ckReset_of_idle {s : State} (hidle : s.busy = false) :
    exec .ckReset s = .next (completeOk { s with acc := 0 }) := by
  rw [exec, execCkReset, issue_idle hidle]
  rfl

theorem exec_ckAbsorb_of_idle {s : State} (hidle : s.busy = false) :
    exec .ckAbsorb s =
      withOperand (readDin s) fun b => .next (completeOk { s with acc := add8 s.acc b }) := by
  rw [exec, execCkAbsorb, issue_idle hidle]
  rfl

theorem exec_ckAbsorb_of_written {s : State} (hidle : s.busy = false) (hdin : s.written.din = true) :
    exec .ckAbsorb s = .next (completeOk { s with acc := add8 s.acc s.din }) := by
  rw [exec_ckAbsorb_of_idle hidle, readDin_of_written hdin, withOperand_ok]

theorem exec_ckAbsorb_of_unwritten {s : State} (hidle : s.busy = false) (hdin : s.written.din = false) :
    exec .ckAbsorb s = .fault (.unspecifiedRead 0x01) := by
  rw [exec_ckAbsorb_of_idle hidle, readDin_of_unwritten hdin, withOperand_error]

theorem exec_ckFinalize_of_idle {s : State} (hidle : s.busy = false) :
    exec .ckFinalize s = .next (completeOk
      { s with ckResult := neg8 s.acc, written := { s.written with ckResult := true } }) := by
  rw [exec, execCkFinalize, issue_idle hidle]
  rfl

/-- All that an accumulator command can do: be refused while another runs, fault on an unwritten DIN (CK.ABSORB
alone), or end normally. -/
theorem exec_accumulator_cases {i : Instr} (s : State) (hi : i = .ckReset ∨ i = .ckAbsorb ∨ i = .ckFinalize) :
    (s.busy = true ∧ exec i s = .refused .commandWhileBusy) ∨
    (i = .ckAbsorb ∧ s.written.din = false ∧ exec i s = .fault (.unspecifiedRead 0x01)) ∨
    (∃ t, exec i s = .next (completeOk t)) := by
  cases hbusy : s.busy with
  | true => exact .inl ⟨rfl, exec_accumulator_of_busy hi hbusy⟩
  | false =>
    obtain rfl | rfl | rfl := hi
    · exact .inr (.inr ⟨_, exec_ckReset_of_idle hbusy⟩)
    · cases hdin : s.written.din with
      | true => exact .inr (.inr ⟨_, exec_ckAbsorb_of_written hbusy hdin⟩)
      | false => exact .inr (.inl ⟨rfl, rfl, exec_ckAbsorb_of_unwritten hbusy hdin⟩)
    · exact .inr (.inr ⟨_, exec_ckFinalize_of_idle hbusy⟩)

/-- Settles O8: the word by the decoder's round trip, the rest by CK.RESET's equation. -/
theorem ckResetResult : Obligations.CkResetResult :=
  ⟨decodeCommand_encodeCommand .ckReset, fun _ hidle => exec_ckReset_of_idle hidle⟩

/-- Settles O9: CK.ABSORB's two equations, with the sum as Nat arithmetic. -/
theorem ckAbsorbResult : Obligations.CkAbsorbResult := by
  refine ⟨decodeCommand_encodeCommand .ckAbsorb, fun s hidle =>
    ⟨fun hdin => ?_, exec_ckAbsorb_of_unwritten hidle⟩⟩
  rw [exec_ckAbsorb_of_written hidle hdin, add8_eq_ofNat]
  rfl

/-- Settles O10: CK.FINALIZE's equation, with the negation as Nat arithmetic. -/
theorem ckFinalizeResult : Obligations.CkFinalizeResult := by
  refine ⟨decodeCommand_encodeCommand .ckFinalize, fun s hidle => ?_⟩
  rw [exec_ckFinalize_of_idle hidle, neg8_eq_ofNat]
  rfl

/-- Settles O13: each way an accumulator command can answer, against the three kinds of outcome. -/
theorem accumulatorCommandsRaiseNoError : Obligations.AccumulatorCommandsRaiseNoError := by
  intro i s hi
  obtain ⟨hbusy, h⟩ | ⟨habsorb, hdin, h⟩ | ⟨u, h⟩ := exec_accumulator_cases s hi <;> rw [h]
  case inl => simp [hbusy]
  case inr.inl => simp [habsorb, hdin]
  case inr.inr => simp

/-! A pass over a sequence of bytes -/

/-- From an idle state, the first byte of a pass is added to ACC and the pass goes on. -/
theorem absorbBytes_cons_of_idle {s : State} (hidle : s.busy = false) (b : Byte) (bs : List Byte) :
    absorbBytes (b :: bs) s = absorbBytes bs (completeOk
      { s with din := b, written := { s.written with din := true }, acc := add8 s.acc b }) := by
  rw [absorbBytes, exec_ckAbsorb_of_written (by exact hidle) rfl]

/-- A pass from an idle state completes, and ACC has gained the sum of its bytes. -/
theorem absorbBytes_of_idle {s : State} (hidle : s.busy = false) (bs : List Byte) :
    ∃ t, absorbBytes bs s = .next t ∧ t.acc = add8 s.acc (sum8 bs) := by
  induction bs generalizing s with
  | nil => exact ⟨s, rfl, (add8_zero s.acc).symm⟩
  | cons b bs ih =>
    obtain ⟨t, hpass, hacc⟩ := ih (s := completeOk
      { s with din := b, written := { s.written with din := true }, acc := add8 s.acc b }) rfl
    refine ⟨t, by rw [absorbBytes_cons_of_idle hidle, hpass], ?_⟩
    rw [hacc, completeOk_acc, sum8, add8_assoc]

/-- Settles O12: every pass adds its bytes' sum, which the negated sum brings to 0 and which no reordering changes. -/
theorem checksumClosure : Obligations.ChecksumClosure := by
  intro s bs hidle
  obtain ⟨t, hpass, hacc⟩ := absorbBytes_of_idle hidle bs
  refine ⟨t, hpass, hacc, fun hzero => ?closes, fun cs hperm => ?reordered⟩
  case closes =>
    obtain ⟨u, hfresh, hsum⟩ := absorbBytes_of_idle hidle (bs ++ [neg8 t.acc])
    refine ⟨u, hfresh, ?_⟩
    calc u.acc = add8 s.acc (add8 (sum8 bs) (sum8 [neg8 t.acc])) := by rw [hsum, sum8_append]
      _ = add8 t.acc (neg8 t.acc) := by rw [← add8_assoc, ← hacc, sum8, sum8, BitVec.ofNat_eq_ofNat, add8_zero]
      _ = 0 := add8_neg8 t.acc
  case reordered =>
    obtain ⟨u, hother, hsum⟩ := absorbBytes_of_idle hidle cs
    exact ⟨u, hother, by rw [hsum, hacc, sum8_perm hperm]⟩

end Sys2Proof.Proofs
end

section
/-! The frame that R122's steps leave in FRAME_BUF, and ENCODE as a whole (R121, R125, R127, R128): when it answers a
next state, what a failed write leaves behind, and that neither its building nor its write reads anything outside its
operands. -/

namespace Sys2Proof.Proofs

open Sys2Proof.Machine

/-! The built frame -/

/-- The steps emit a frame that fits FRAME_BUF from index 0 on, so FRAME_LEN ends at its length. -/
theorem buildFrame_frameLen {t : Byte} {p : List Byte} (hp : p.length ≤ Config.maxPayload) (s : State) :
    (buildFrame t p s).frameLen.toNat = (encodeFrame t p).length := by
  obtain ⟨hlen, -, -⟩ := emitAll_spec (encodeFrame t p) { s with frameLen := 0 }
    (by simpa using encodeFrame_length_le hp)
  simpa [buildFrame_eq] using hlen

theorem buildFrame_eacc (t : Byte) (p : List Byte) (s : State) :
    (buildFrame t p s).eacc = add8 (add8 t (BitVec.ofNat 8 p.length)) (sum8 p) := by
  rw [buildFrame_eq]

/-- FRAME_BUF beyond the frame keeps what it held. -/
theorem buildFrame_read_beyond {t : Byte} {p : List Byte} (hp : p.length ≤ Config.maxPayload) (s : State) {i : Nat}
    (hi : (encodeFrame t p).length ≤ i) : (buildFrame t p s).frameBuf.read i = s.frameBuf.read i := by
  obtain ⟨-, -, hbeyond⟩ := emitAll_spec (encodeFrame t p) { s with frameLen := 0 }
    (by simpa using encodeFrame_length_le hp)
  simpa [buildFrame_eq] using hbeyond i (.inr (by simpa using hi))

/-- A frame has its three sentinels and at least one byte for each of typeID, length and checksum (R11). -/
theorem six_le_encodeFrame_length (t : Byte) (p : List Byte) : 6 ≤ (encodeFrame t p).length := by
  rw [encodeFrame_length, frameLength]
  omega

/-- Settles O14: the frame fits FRAME_BUF, so the emitted bytes stand there whole and nothing else moves. -/
theorem builtFrameIsTheWireFrame : Obligations.BuiltFrameIsTheWireFrame := by
  intro t p s hp
  have hfit : (encodeFrame t p).length ≤ Config.frameBufSize := encodeFrame_length_le hp
  have hlen : (buildFrame t p s).frameLen.toNat = (encodeFrame t p).length := buildFrame_frameLen hp s
  exact ⟨frameBytes_buildFrame s hfit, hlen, hlen ▸ six_le_encodeFrame_length t p, hlen ▸ hfit,
    buildFrame_eacc t p s, buildFrame_frame t p s, fun _ hi => buildFrame_read_beyond hp s hi⟩

/-! When ENCODE answers a next state -/

theorem readTxType_eq_ok_iff {s : State} {t : Byte} :
    readTxType s = .ok t ↔ s.written.txType = true ∧ s.txType = t := by
  cases h : s.written.txType <;> simp [readTxType, readMarked, h]

theorem readTxLen_eq_ok_iff {s : State} {n : LenWord} :
    readTxLen s = .ok n ↔ s.written.txLen = true ∧ s.txLen = n := by
  cases h : s.written.txLen <;> simp [readTxLen, readMarked, h]

/-- ENCODE from an idle state, BUSY = 1 being read by none of its operands (R125). -/
theorem exec_encode_of_idle {s : State} (hidle : s.busy = false) :
    exec .encode s =
      withOperand (readTxType s) fun t => withOperand (readTxLen s) fun n =>
        if Config.maxPayload < n.toNat then .next (raiseError .payloadTooLarge { s with busy := true })
        else withOperand (readTxPayload n.toNat s) fun p =>
          sendFrame (buildFrame t p { s with busy := true }) := by
  rw [exec, execEncode, issue_idle hidle]
  rfl

/-- ENCODE rejects a long payload before it reads any of it (R121). -/
theorem exec_encode_of_long {s : State} (hidle : s.busy = false) (htype : s.written.txType = true)
    (hlenWritten : s.written.txLen = true) (hlong : Config.maxPayload < s.txLen.toNat) :
    exec .encode s = .next (raiseError .payloadTooLarge { s with busy := true }) := by
  rw [exec_encode_of_idle hidle, readTxType_eq_ok_iff.mpr ⟨htype, rfl⟩, withOperand_ok,
    readTxLen_eq_ok_iff.mpr ⟨hlenWritten, rfl⟩, withOperand_ok, if_pos hlong]

/-- Settles O21: the error's record update, BUSY raised at issue and lowered again. -/
theorem encodeRejectsLongPayload : Obligations.EncodeRejectsLongPayload :=
  fun _ hidle htype hlenWritten hlong => exec_encode_of_long hidle htype hlenWritten hlong

/-- ENCODE with a payload that fits and can be read builds its frame and hands it to the transport. -/
theorem exec_encode_of_payload {s : State} {p : List Byte} (hidle : s.busy = false)
    (htype : s.written.txType = true) (hlenWritten : s.written.txLen = true)
    (hmax : s.txLen.toNat ≤ Config.maxPayload) (hpayload : readTxPayload s.txLen.toNat s = .ok p) :
    exec .encode s = sendFrame (buildFrame s.txType p { s with busy := true }) := by
  obtain ⟨hlen, hbytes⟩ := Memory.readRange_eq_ok.mp hpayload
  exact exec_encode_of_operands hidle htype hlenWritten hmax hlen fun i hi => by simpa using hbytes i hi

/-- All that lets ENCODE answer a next state: it was idle with TX_TYPE and TX_LEN written, and either TX_LEN was too
long or the payload could be read and the frame's write answered that state. -/
theorem exec_encode_next {s t : State} (h : exec .encode s = .next t) :
    s.busy = false ∧ s.written.txType = true ∧ s.written.txLen = true ∧
      ((Config.maxPayload < s.txLen.toNat ∧ t = raiseError .payloadTooLarge { s with busy := true }) ∨
       (s.txLen.toNat ≤ Config.maxPayload ∧ ∃ p, readTxPayload s.txLen.toNat s = .ok p ∧
         sendFrame (buildFrame s.txType p { s with busy := true }) = .next t)) := by
  have hidle : s.busy = false := by
    rw [exec, execEncode] at h
    exact (issue_next h).1
  rw [exec_encode_of_idle hidle] at h
  obtain ⟨ty, hty, hbody⟩ := withOperand_next h
  obtain ⟨n, hn, hbody⟩ := withOperand_next hbody
  obtain ⟨htype, rfl⟩ := readTxType_eq_ok_iff.mp hty
  obtain ⟨hlenWritten, rfl⟩ := readTxLen_eq_ok_iff.mp hn
  refine ⟨hidle, htype, hlenWritten, ?_⟩
  split at hbody
  next hlong => exact .inl ⟨hlong, (Host.Outcome.next.inj hbody).symm⟩
  next hmax => exact .inr ⟨Nat.not_lt.mp hmax, withOperand_next hbody⟩

/-! A write that fails -/

/-- The next listed answer, a failure, is used up, and the bytes it names reach the wire (R53). -/
theorem txWrite_of_fail {s : State} {sent : Nat} {rest : List TxItem} (h : s.txAnswers = .fail sent :: rest)
    (f : List Byte) :
    txWrite f s = (.failed, { s with txAnswers := rest, txLog := s.txLog ++ f.take sent }) := by
  simp [txWrite, nextTxAnswer, h]

/-- A failed write ends the command with TransportError (R127). -/
theorem sendFrame_of_fail {s : State} {f : List Byte} {sent : Nat} {rest : List TxItem}
    (hf : frameBytes s = .ok f) (h : s.txAnswers = .fail sent :: rest) :
    sendFrame s = .next (raiseError .transportError
      { s with txAnswers := rest, txLog := s.txLog ++ f.take sent }) := by
  rw [sendFrame, hf, withOperand_ok, txWrite_of_fail h]

@[simp] theorem buildFrame_txAnswers (t : Byte) (p : List Byte) (s : State) :
    (buildFrame t p s).txAnswers = s.txAnswers := by
  rw [buildFrame_frame]

/-- Settles O18: the frame is built whole as R122 says, and the failed write then touches neither FRAME_BUF nor
FRAME_LEN. -/
theorem encodeWriteFailure : Obligations.EncodeWriteFailure := by
  intro s p sent rest hidle htype hlenWritten hmax hlen hbytes hanswer
  obtain ⟨hframe, -, -, -, -, hfields, hbeyond⟩ :=
    builtFrameIsTheWireFrame s.txType p { s with busy := true } (hlen.trans_le hmax)
  rw [exec_encode_of_operands hidle htype hlenWritten hmax hlen hbytes,
    sendFrame_of_fail hframe (by rw [buildFrame_txAnswers]; exact hanswer)]
  refine ⟨_, rfl, ?others, hframe, hbeyond⟩
  case others => rw [hfields]; rfl

/-! ENCODE's frame -/

/-- The write and the end of the command change STATUS, BUSY, TX_LOG and the write answers only; DSTATE stays the IDLE
it is between commands (R37). -/
theorem sendFrame_frame {s t : State} (hdstate : s.dstate = .idle) (h : sendFrame s = .next t) :
    t = { s with
      status := t.status, written := { s.written with status := t.written.status }, busy := t.busy
      txLog := t.txLog, txAnswers := t.txAnswers, draws := t.draws } := by
  obtain ⟨f, -, hend⟩ := withOperand_next h
  obtain ⟨sent, k, hw⟩ | ⟨k, hw⟩ | ⟨k, hw⟩ := txWrite_cases f s <;> rw [hw] at hend <;> cases hend
  case inl => simp [raiseError, setStatus, hdstate]
  case inr.inl => rfl
  case inr.inr => rfl

/-- Whatever its end, ENCODE from DSTATE = IDLE changes only what R128 gives it. -/
theorem exec_encode_frame {s t : State} (hdstate : s.dstate = .idle) (h : exec .encode s = .next t) :
    t = { s with
      status := t.status, written := { s.written with status := t.written.status }, busy := t.busy
      txLog := t.txLog, eacc := t.eacc, frameBuf := t.frameBuf, frameLen := t.frameLen
      txAnswers := t.txAnswers, draws := t.draws } := by
  obtain ⟨-, -, -, ⟨-, rfl⟩ | ⟨-, p, -, hsend⟩⟩ := exec_encode_next h
  case inl => simp [raiseError, setStatus, hdstate]
  case inr =>
    rw [buildFrame_frame] at hsend
    rw [sendFrame_frame (by exact hdstate) hsend]

/-! What ENCODE does not read -/

/-- `s` with DSTATE = `d` and, in place of the registers and the stream ENCODE does not read (R128), those of `x`. -/
def withUnread (x : State) (d : DState) (s : State) : State :=
  { s with
    acc := x.acc, ckResult := x.ckResult, din := x.din, rxValid := x.rxValid, rxType := x.rxType
    rxLen := x.rxLen, rxPayload := x.rxPayload, dstate := d, rxStream := x.rxStream }

theorem emitAll_withUnread (bs : List Byte) (x : State) (d : DState) (s : State) :
    emitAll bs (withUnread x d s) = withUnread x d (emitAll bs s) := by
  induction bs generalizing s with
  | nil => rfl
  | cons b bs ih => exact ih (emit b s)

/-- Building a frame neither reads nor changes them. -/
theorem buildFrame_withUnread (t : Byte) (p : List Byte) (x : State) (d : DState) (s : State) :
    buildFrame t p (withUnread x d s) = withUnread x d (buildFrame t p s) := by
  have hemit := emitAll_withUnread (encodeFrame t p) x d { s with frameLen := 0 }
  rw [buildFrame_eq, buildFrame_eq]
  exact congrArg (fun u : State => { u with eacc := add8 (add8 t (BitVec.ofNat 8 p.length)) (sum8 p) }) hemit

/-- A write to the transport neither reads nor changes them. -/
theorem txWrite_withUnread (f : List Byte) (x : State) (d : DState) (s : State) :
    txWrite f (withUnread x d s) = ((txWrite f s).1, withUnread x d (txWrite f s).2) := by
  cases hanswers : s.txAnswers with
  | nil => cases ha : Config.freeTxAnswer s.draws <;> simp [txWrite, nextTxAnswer, withUnread, hanswers, ha]
  | cons a rest => cases a <;> simp [txWrite, nextTxAnswer, withUnread, hanswers]

/-- The end of a command reads none of them either, and an error alone writes one: DSTATE becomes IDLE (R185). -/
theorem sendFrame_withUnread {s t : State} (x : State) (d : DState) (h : sendFrame s = .next t) :
    ∃ e : DState, (e = d ∨ e = .idle) ∧ sendFrame (withUnread x d s) = .next (withUnread x e t) := by
  obtain ⟨f, hf, hend⟩ := sendFrame_cases h
  have hf' : frameBytes (withUnread x d s) = .ok f := hf
  rw [sendFrame, hf', withOperand_ok, txWrite_withUnread]
  obtain ⟨u, hw, rfl⟩ | ⟨u, hw, rfl⟩ | hw := hend <;> rw [hw]
  case inl => exact ⟨d, .inl rfl, rfl⟩
  case inr.inl => exact ⟨.idle, .inr rfl, rfl⟩
  case inr.inr => exact ⟨d, .inl rfl, rfl⟩

/-- ENCODE's operands are read alike whatever stands in them, so its end is the same. -/
theorem exec_encode_withUnread {s t : State} (x : State) (d : DState) (h : exec .encode s = .next t) :
    ∃ e : DState, (e = d ∨ e = .idle) ∧ exec .encode (withUnread x d s) = .next (withUnread x e t) := by
  obtain ⟨hidle, htype, hlenWritten, ⟨hlong, rfl⟩ | ⟨hmax, p, hpayload, hsend⟩⟩ := exec_encode_next h
  case inl => exact ⟨.idle, .inr rfl, exec_encode_of_long (s := withUnread x d s) hidle htype hlenWritten hlong⟩
  case inr =>
    obtain ⟨e, he, hsend'⟩ := sendFrame_withUnread x d hsend
    refine ⟨e, he, ?_⟩
    rw [exec_encode_of_payload (s := withUnread x d s) hidle htype hlenWritten hmax hpayload, ← hsend',
      ← buildFrame_withUnread]
    rfl

/-- Settles O23: ENCODE's frame, and its run beside the run with the unread state exchanged. -/
theorem encodeTouchesOnlyItsOwn : Obligations.EncodeTouchesOnlyItsOwn :=
  fun _ _ hdstate h => ⟨exec_encode_frame hdstate h, fun x => exec_encode_withUnread x x.dstate h⟩

end Sys2Proof.Proofs
end

section
/-! DECODE on whole frames (R140, R142): a frame whose sum is 0 ends OK with its logical bytes and the rest unread
(R151, R157, R160), and once the sum is tested only the terminators can end it (R148, R149, R150). -/

namespace Sys2Proof.Proofs

open Sys2Proof.Machine

/-- DECODE from an idle state runs over RX_STREAM from its start actions on (R140). -/
theorem exec_decode_of_idle {s : State} (hidle : s.busy = false) :
    exec .decode s = .next (decodeRun s.rxStream (startDecode { s with busy := true })) := by
  rw [exec, execDecode, issue_idle hidle]

/-! A whole frame -/

/-- The end of a DECODE that has read a frame of logical bytes `t`, `n`, `p`, `c` (R151). -/
def afterFrame (t n c : Byte) (p : List Byte) (rest : List RxItem) (s : State) : State :=
  completeOk { afterHead t n c p rest (startDecode s) with rxValid := true, dstate := .idle }

@[simp] theorem afterFrame_status (t n c : Byte) (p : List Byte) (rest : List RxItem) (s : State) :
    (afterFrame t n c p rest s).status = .ok := rfl

@[simp] theorem afterFrame_busy (t n c : Byte) (p : List Byte) (rest : List RxItem) (s : State) :
    (afterFrame t n c p rest s).busy = false := rfl

@[simp] theorem afterFrame_rxStream (t n c : Byte) (p : List Byte) (rest : List RxItem) (s : State) :
    (afterFrame t n c p rest s).rxStream = rest := rfl

/-- From its start actions on, DECODE reads a frame with a sum of 0 to its end and nothing beyond, whatever the second
bytes of its escape pairs are. -/
theorem decodeRun_of_frame {t n c : Byte × Byte} {ps : List (Byte × Byte)} (hlen : ps.length = n.1.toNat)
    (hsum : frameSum t n ps c = 0) (rest : List RxItem) (s : State) :
    decodeRun ((frameHead t n ps c ++ [Config.dle, Config.etx]).map .byte ++ rest) (startDecode s) =
      afterFrame t.1 n.1 c.1 (ps.map Prod.fst) rest s := by
  rw [List.map_append, List.append_assoc, decodeRun_frameHead t n c ps _ s hlen, if_pos hsum]
  exact decodeRun_terminators rest rfl

/-- A list written from index 0 on that fits a buffer is read back in order. -/
theorem readRange_writeAll {size n : Nat} {p : List Byte} (hlen : p.length = n) (hfit : n ≤ size) (m : Memory)
    (missing : Nat → Fault) : (m.writeAll size 0 p).readRange missing 0 n = .ok p := by
  obtain ⟨hbytes, -⟩ := Memory.read_writeAll (size := size) p m 0 (by omega)
  exact Memory.readRange_eq_ok.mpr ⟨hlen, hbytes⟩

theorem rxPacket_of_readRange {s : State} {p : List Byte} (hvalid : s.rxValid = true)
    (hread : s.rxPayload.readRange missingRxByte 0 s.rxLen.toNat = .ok p) : rxPacket s = some ⟨s.rxType, p⟩ := by
  simp [rxPacket, hvalid, hread]

/-- The packet a whole frame leaves is its typeID and its payload. -/
theorem rxPacket_afterFrame {n : Byte} {p : List Byte} (hlen : p.length = n.toNat) (t c : Byte)
    (rest : List RxItem) (s : State) : rxPacket (afterFrame t n c p rest s) = some ⟨t, p⟩ :=
  rxPacket_of_readRange rfl (readRange_writeAll hlen (Nat.le_of_lt_succ n.isLt) s.rxPayload missingRxByte)

/-- Settles O24: an encoded frame is a frame with true pairs and a sum of 0, so DECODE ends after it with its packet,
and `rest` is what is left of the stream. -/
theorem frameRoundTrip : Obligations.FrameRoundTrip := by
  intro t p rest hp
  have hlen : p.length = (BitVec.ofNat 8 p.length).toNat := by
    rw [BitVec.toNat_ofNat]; omega
  have hrun (s : State) : decodeRun ((encodeFrame t p ++ rest).map .byte) (startDecode s) =
      afterFrame t (BitVec.ofNat 8 p.length) (packetChecksum t p) p (rest.map .byte) s := by
    have hframe := decodeRun_of_frame (ps := p.map fun b => (b, Config.dle)) (by simpa using hlen)
      (frameSum_packetChecksum t p) (rest.map .byte) s
    rw [← encodeFrame_eq_frameHead, ← List.map_append] at hframe
    simpa [Function.comp_def] using hframe
  have hconsumed : (encodeFrame t p ++ rest).length - (rest.map RxItem.byte).length = frameLength t p := by
    rw [List.length_append, List.length_map, Nat.add_sub_cancel, encodeFrame_length]
  simp only [decodeFrame, hrun, afterFrame_status, rxPacket_afterFrame hlen, afterFrame_rxStream, hconsumed]

/-! Escape pairs -/

theorem pairBytes_dle (x : Byte) : pairBytes (Config.dle, x) = [Config.dle, x] := if_pos rfl

/-- In a field state a pair delivers a logical DLE, so no two runs over a pair differ (R157). -/
theorem decodeRun_pair_congr {s : State} (hfield : s.dstate.isField = true) (hesc : s.esc = false) (x y : Byte)
    (rest : List RxItem) :
    decodeRun (.byte Config.dle :: .byte x :: rest) s = decodeRun (.byte Config.dle :: .byte y :: rest) s := by
  have hx := decodeRun_pairBytes (Config.dle, x) rest hfield hesc
  have hy := decodeRun_pairBytes (Config.dle, y) rest hfield hesc
  rw [pairBytes_dle] at hx hy
  exact hx.trans hy.symm

/-- Settles O26: the unescaper's rule for one pair, and the run over a whole frame, which asks nothing of the second
bytes. -/
theorem decodeIgnoresSecondByteOfPairs : Obligations.DecodeIgnoresSecondByteOfPairs := by
  refine ⟨fun s x rest hfield hesc => decodeRun_pair_congr hfield hesc x Config.dle rest, ?frames⟩
  case frames =>
    intro s t n c ps rest hidle hlen hsum hstream
    rw [exec_decode_of_idle hidle, hstream, decodeRun_of_frame hlen hsum]
    exact ⟨_, rfl, rfl, rfl, rxPacket_afterFrame (by rwa [List.length_map]) _ _ _ _, rfl⟩

/-! The test of the sum, and what can end DECODE after it -/

theorem sumIsZero_iff {a : Byte} : sumIsZero a = true ↔ a = 0 := decide_eq_true_iff

/-- VERIFY goes on when the sum is 0 (R148). -/
theorem internalStep_verify_of_zero {s : State} (hd : s.dstate = .verify) (hsum : s.dacc = 0) :
    internalStep s = { s with dstate := .awaitDleEnd } := by
  simp only [internalStep, hd, sumIsZero_iff, hsum, if_true]

/-- VERIFY ends the command when the sum is not 0 (R148). -/
theorem internalStep_verify_of_ne_zero {s : State} (hd : s.dstate = .verify) (hsum : s.dacc ≠ 0) :
    internalStep s = raiseError .checksumMismatch s := by
  simp only [internalStep, hd, sumIsZero_iff, hsum, if_false]

/-- The byte read for the end DLE (R149). -/
theorem decodeByte_awaitDleEnd {s : State} (hd : s.dstate = .awaitDleEnd) (b : Byte) :
    decodeByte b s = if b = Config.dle then { s with dstate := .awaitEtx } else raiseError .framingError s := by
  simp only [decodeByte, byteStep, hd, expectByte]
  split <;> rfl

/-- The byte read for the ETX, and the end of the frame after it (R150, R151). -/
theorem decodeByte_awaitEtx {s : State} (hd : s.dstate = .awaitEtx) (b : Byte) :
    decodeByte b s =
      if b = Config.etx then completeOk { s with rxValid := true, dstate := .idle }
      else raiseError .framingError s := by
  simp only [decodeByte, byteStep, hd, expectByte]
  split <;> rfl

/-- A DECODE past its checksum: it reads the terminators with BUSY = 1, or has ended, and not with
ChecksumMismatch. -/
def PastChecksum (s : State) : Prop :=
  ((s.dstate = .awaitDleEnd ∨ s.dstate = .awaitEtx) ∧ s.busy = true) ∨
    (s.dstate = .idle ∧ s.status ≠ .checksumMismatch)

theorem pastChecksum_raiseError {code : Status} (hcode : code ≠ .checksumMismatch) (s : State) :
    PastChecksum (raiseError code s) := .inr ⟨rfl, hcode⟩

/-- Reading a terminator byte, whatever it is, stays past the checksum. -/
theorem pastChecksum_decodeByte {s : State} (b : Byte) (hpast : PastChecksum s) (hd : s.dstate ≠ .idle) :
    PastChecksum (decodeByte b s) := by
  obtain ⟨hdle | hetx, hbusy⟩ | ⟨hidle, -⟩ := hpast
  · rw [decodeByte_awaitDleEnd hdle]
    split
    · exact .inl ⟨.inr rfl, hbusy⟩
    · exact pastChecksum_raiseError (by decide) s
  · rw [decodeByte_awaitEtx hetx]
    split
    · exact .inr ⟨rfl, by simp⟩
    · exact pastChecksum_raiseError (by decide) s
  · exact absurd hidle hd

/-- So does a run over any stream. -/
theorem pastChecksum_decodeRun (stream : List RxItem) {s : State} (hd : s.dstate = .awaitDleEnd)
    (hbusy : s.busy = true) : PastChecksum (decodeRun stream s) := by
  refine decodeRun_induction stream s ?exhausted ?failed ?withheld ?answered (.inl ⟨.inl hd, hbusy⟩) (by simp [hd])
  case exhausted => exact fun _ _ _ => pastChecksum_raiseError (by decide) _
  case failed => exact fun _ _ _ _ => pastChecksum_raiseError (by decide) _
  case withheld => exact fun _ _ hpast _ => hpast
  case answered => exact fun b _ _ hpast hread => pastChecksum_decodeByte b hpast hread

/-- A command past its checksum that has ended did not end with ChecksumMismatch. -/
theorem status_ne_of_pastChecksum {s : State} (hpast : PastChecksum s) (hended : s.busy = false) :
    s.status ≠ .checksumMismatch := by
  obtain ⟨-, hbusy⟩ | ⟨-, hstatus⟩ := hpast
  · rw [hended] at hbusy; cases hbusy
  · exact hstatus

/-- Settles O27: VERIFY's two rows, and a frame head's run, which tests the sum before it reads on. -/
theorem decodeReportsChecksumMismatch : Obligations.DecodeReportsChecksumMismatch := by
  refine ⟨fun s hd => ⟨internalStep_verify_of_zero hd, internalStep_verify_of_ne_zero hd⟩, ?heads⟩
  case heads =>
    intro s t n c ps rest hidle hlen hstream
    refine ⟨_, exec_decode_of_idle hidle, ?_⟩
    rw [hstream, decodeRun_frameHead t n c ps rest _ hlen]
    refine ⟨fun hbad => ?bad, fun hgood => ?good⟩
    case bad =>
      rw [if_neg hbad]
      exact ⟨rfl, rfl, rfl, rfl, rfl⟩
    case good =>
      rw [if_pos hgood]
      exact status_ne_of_pastChecksum (pastChecksum_decodeRun rest rfl rfl)

end Sys2Proof.Proofs
end

section
/-! The invariant of the block while no command runs (R33, R50), and reset (R40, R210, R211), which leaves such a
state. -/

namespace Sys2Proof.Proofs

open Sys2Proof.Machine

/-! The bytes a buffer holds -/

theorem holds_iff {m : Memory} {n : Nat} : m.holds n = true ↔ ∀ i < n, (m.read i).isSome = true := by
  simp [Memory.holds]

theorem holds_zero (m : Memory) : m.holds 0 = true := rfl

/-- Storing the byte after those held makes one more. -/
theorem holds_succ_write {size n : Nat} {m : Memory} (h : m.holds n = true) (hn : n < size) (b : Byte) :
    (m.write size n b).holds (n + 1) = true := by
  refine holds_iff.mpr fun i hi => ?_
  rw [Memory.read_write m i b hn]
  split
  next => rfl
  next hne => exact holds_iff.mp h i (by omega)

theorem holds_of_readRange {m : Memory} {missing : Nat → Fault} {n : Nat} {bs : List Byte}
    (h : m.readRange missing 0 n = .ok bs) : m.holds n = true := by
  obtain ⟨rfl, hbytes⟩ := Memory.readRange_eq_ok.mp h
  exact holds_iff.mpr fun i hi => by simpa using Option.isSome_of_eq_some (hbytes i hi)

/-! The invariant while no command runs -/

/-- With BUSY = 0 and DSTATE = IDLE nothing waits, so the clauses on a command in progress ask nothing. -/
theorem inv_of_idle {s : State} (hidle : s.busy = false) (hdstate : s.dstate = .idle)
    (htx : s.txPayload.wf Config.maxPayload = true) (hrx : s.rxPayload.wf Config.maxPayload = true)
    (hframe : s.frameBuf.wf Config.frameBufSize = true)
    (hpacket : s.rxValid = true → s.rxPayload.holds s.rxLen.toNat = true) : s.Inv where
  txPayload_wf := htx
  rxPayload_wf := hrx
  frameBuf_wf := hframe
  idle_between := fun _ => hdstate
  not_verify := by simp [hdstate]
  not_done := by simp [hdstate]
  no_packet_while_decoding := fun h => absurd hdstate h
  packet_held := hpacket
  counter_in_range := by simp [hdstate]
  counted_held := by simp [hdstate]
  payload_held := by simp [hdstate]
  esc_in_field := fun h => absurd hdstate h
  frame_held := by simp [hidle]
  read_waits := fun h => absurd hdstate h
  write_waits := by simp [hidle]

/-- The invariant speaks of no input and no host read. -/
theorem inv_withScript {s : State} (h : s.Inv) (xs : List Input) (reads : List (Nat × LenWord)) :
    ({ s with inputs := xs, hostReads := reads } : State).Inv :=
  { h with }

/-! Reset -/

/-- Settles O50: the reset state is idle, with empty buffers and no packet. -/
theorem resetKeepsInvariant : Obligations.ResetKeepsInvariant :=
  inv_of_idle rfl rfl rfl rfl rfl nofun

/-- So is every state a hardware reset leaves (R210). -/
theorem inv_hardReset (sent : Nat) (s : State) : (hardReset sent s).Inv :=
  inv_of_idle rfl rfl rfl rfl rfl nofun

/-- No register but BUSY and RX_VALID holds a value after reset (R40). -/
theorem valueHeld_hardReset (r : Reg) (sent : Nat) (s : State) :
    valueHeld r (hardReset sent s) = decide (r = .busy ∨ r = .rxValid) := by
  cases r <;> simp [valueHeld, hardReset, State.reset]

/-- Only a waiting ENCODE has a write to interrupt (R211). -/
theorem interruptedBytes_of_no_write {s : State} (h : s.busy = false ∨ s.dstate ≠ .idle) (sent : Nat) :
    interruptedBytes sent s = [] := by
  obtain hidle | hdstate := h
  · simp [interruptedBytes, encodeWaiting, hidle]
  · simp [interruptedBytes, encodeWaiting, hdstate]

/-- An interrupted write has sent a leading part of its frame (R211). -/
theorem interruptedBytes_of_write {s : State} {f : List Byte} (hbusy : s.busy = true) (hdstate : s.dstate = .idle)
    (hf : frameBytes s = .ok f) (sent : Nat) : interruptedBytes sent s = f.take sent := by
  simp [interruptedBytes, encodeWaiting, hbusy, hdstate, hf]

/-- Settles O49: the step is the reset, whose registers are those of the reset state. -/
theorem hardResetResult : Obligations.HardResetResult := by
  intro s q rest hinputs
  refine ⟨hardReset q { s with inputs := rest }, step_of_inputs hinputs, rfl, rfl, rfl, rfl,
    fun r => valueHeld_hardReset r q _, rfl, fun i => ⟨rfl, rfl, rfl⟩, rfl, rfl, rfl,
    fun hnone => ?nothing, fun f hbusy hdstate hf => ?part⟩
  case nothing =>
    calc s.txLog ++ interruptedBytes q { s with inputs := rest }
        = s.txLog ++ [] := by rw [interruptedBytes_of_no_write (by exact hnone)]
      _ = s.txLog := List.append_nil _
  case part =>
    exact congrArg (s.txLog ++ ·)
      (interruptedBytes_of_write (s := { s with inputs := rest }) hbusy hdstate hf q)

end Sys2Proof.Proofs
end

section
/-! The course of a DECODE from any state (R154, R185, R219): each byte leaves it running or ended, no internal row is
left pending, and a run over a stream ends or stops at a withheld answer. -/

namespace Sys2Proof.Proofs

open Sys2Proof.Machine

theorem exec_decode_next {s t : State} (h : exec .decode s = .next t) :
    t = decodeRun s.rxStream (startDecode { s with busy := true }) := by
  rw [exec, execDecode] at h
  exact (Host.Outcome.next.inj (issue_next h).2).symm

/-- A DECODE has not ended, the internal rows VERIFY and DONE included. -/
structure Running (s : State) : Prop where
  in_progress : s.dstate ≠ .idle
  busy : s.busy = true

/-- A DECODE has ended, and STATUS holds the code of its end, which is not ENCODE's (R74, R185). -/
structure EndReported (s : State) : Prop where
  dstate_idle : s.dstate = .idle
  busy : s.busy = false
  written : s.written.status = true
  code : s.status ≠ .payloadTooLarge

theorem endReported_raiseError {code : Status} (hcode : code ≠ .payloadTooLarge) (s : State) :
    EndReported (raiseError code s) := ⟨rfl, rfl, rfl, hcode⟩

/-- A logical byte ends no command. -/
theorem running_deliver {s : State} (h : Running s) (v : Byte) : Running (deliver v s) := by
  unfold deliver
  split
  case h_2 | h_3 => exact ⟨by simp only; split <;> nofun, h.busy⟩
  case h_1 | h_4 => exact ⟨nofun, h.busy⟩
  all_goals exact h

theorem running_fieldByte {s : State} (h : Running s) (b : Byte) : Running (fieldByte b s) := by
  unfold fieldByte
  split
  next => exact running_deliver (s := { s with esc := false }) ⟨h.in_progress, h.busy⟩ Config.dle
  next =>
    split
    next => exact ⟨h.in_progress, h.busy⟩
    next => exact running_deliver h b

/-- Where a sentinel is expected any other byte ends the command (R143, R149, R150). -/
theorem course_expectByte {s : State} {after : DState} (h : Running s) (hafter : after ≠ .idle) (expected b : Byte) :
    Running (expectByte expected after b s) ∨ EndReported (expectByte expected after b s) := by
  unfold expectByte
  split
  next => exact .inl ⟨hafter, h.busy⟩
  next => exact .inr (endReported_raiseError (by decide) s)

theorem course_byteStep {s : State} (h : Running s) (b : Byte) :
    Running (byteStep b s) ∨ EndReported (byteStep b s) := by
  unfold byteStep
  split
  case h_1 | h_6 | h_7 => exact course_expectByte h (by decide) _ b
  case h_2 | h_3 | h_4 | h_5 => exact .inl (running_fieldByte h b)
  all_goals exact .inl h

theorem course_internalStep {s : State} (h : Running s) :
    Running (internalStep s) ∨ EndReported (internalStep s) := by
  unfold internalStep
  split
  next =>
    split
    next => exact .inl ⟨nofun, h.busy⟩
    next => exact .inr (endReported_raiseError (by decide) s)
  next => exact .inr ⟨rfl, rfl, rfl, nofun⟩
  all_goals exact .inl h

/-- Only VERIFY and DONE have an internal row. -/
theorem internalStep_of_settled {s : State} (hverify : s.dstate ≠ .verify) (hdone : s.dstate ≠ .done) :
    internalStep s = s := by
  unfold internalStep
  split
  next hd => exact absurd hd hverify
  next hd => exact absurd hd hdone
  all_goals rfl

/-- No internal row is left pending (R154). -/
theorem internalStep_settled (s : State) :
    (internalStep s).dstate ≠ .verify ∧ (internalStep s).dstate ≠ .done := by
  unfold internalStep
  split
  next => split <;> simp
  next => simp
  all_goals simp_all

/-- A DECODE at a read or at its end. -/
structure AtRead (s : State) : Prop where
  course : Running s ∨ EndReported s
  not_verify : s.dstate ≠ .verify
  not_done : s.dstate ≠ .done

theorem AtRead.running {s : State} (h : AtRead s) (hd : s.dstate ≠ .idle) : Running s :=
  h.course.resolve_right fun hended => hd hended.dstate_idle

theorem AtRead.reported {s : State} (h : AtRead s) (hended : s.busy = false) : EndReported s :=
  h.course.resolve_left fun hruns => by simp [hruns.busy] at hended

theorem atRead_raiseError {code : Status} (hcode : code ≠ .payloadTooLarge) (s : State) :
    AtRead (raiseError code s) := ⟨.inr (endReported_raiseError hcode s), nofun, nofun⟩

/-- The start actions put a DECODE at its first read. -/
theorem atRead_startDecode {s : State} (hbusy : s.busy = true) : AtRead (startDecode s) :=
  ⟨.inl ⟨nofun, hbusy⟩, nofun, nofun⟩

theorem atRead_internalStep {s : State} (h : Running s) : AtRead (internalStep s) :=
  ⟨course_internalStep h, (internalStep_settled s).1, (internalStep_settled s).2⟩

theorem atRead_decodeByte {s : State} (h : Running s) (b : Byte) : AtRead (decodeByte b s) := by
  obtain hruns | hended := course_byteStep h b
  · exact atRead_internalStep hruns
  · have hnone : decodeByte b s = byteStep b s :=
      internalStep_of_settled (by simp [hended.dstate_idle]) (by simp [hended.dstate_idle])
    rw [hnone]
    exact ⟨.inr hended, by simp [hended.dstate_idle], by simp [hended.dstate_idle]⟩

theorem atRead_decodeRun (stream : List RxItem) {s : State} (h : AtRead s) (hd : s.dstate ≠ .idle) :
    AtRead (decodeRun stream s) := by
  refine decodeRun_induction stream s ?exhausted ?failed ?withheld ?answered h hd
  case exhausted => exact fun _ _ _ => atRead_raiseError (by decide) _
  case failed => exact fun _ _ _ _ => atRead_raiseError (by decide) _
  case withheld =>
    exact fun _ _ h hd => ⟨.inl ⟨hd, (h.running hd).busy⟩, h.not_verify, h.not_done⟩
  case answered =>
    exact fun b rest s h hd => atRead_decodeByte (s := requestRead rest s) ⟨hd, (h.running hd).busy⟩ b

/-- A run ends, or stops where the transport withholds an answer (R219). -/
theorem decodeRun_ends_or_waits (stream : List RxItem) (s : State) :
    (decodeRun stream s).dstate = .idle ∨ (decodeRun stream s).rxStream.head? = some .withheld := by
  induction stream generalizing s with
  | nil => exact .inl rfl
  | cons a rest ih =>
    cases a with
    | fail => exact .inl rfl
    | withheld => exact .inr rfl
    | byte b =>
      rw [decodeRun_byte]
      split
      next hended => exact .inl hended
      next => exact ih _

/-- A DECODE that goes on takes the internal row still pending, if any, and is then at a read again. -/
theorem atRead_resumeDecode {s : State} (h : Running s) : AtRead (resumeDecode s) := by
  have hinternal := atRead_internalStep h
  rw [resumeDecode]
  split
  next => exact hinternal
  next hd => exact atRead_decodeRun _ hinternal hd

/-- At a read there is none. -/
theorem resumeDecode_of_settled {s : State} (hd : s.dstate ≠ .idle) (hverify : s.dstate ≠ .verify)
    (hdone : s.dstate ≠ .done) : resumeDecode s = decodeRun s.rxStream s := by
  simp only [resumeDecode, internalStep_of_settled hverify hdone, if_neg hd]

end Sys2Proof.Proofs
end

section
/-! Every step keeps the invariant of the block (R31, R33, R37, R50, R146, R219). `ReceiverInv` is its part on the
decoder's registers, which every byte of a DECODE keeps; an ENCODE at its write is `FrameReady`. -/

namespace Sys2Proof.Proofs

open Sys2Proof.Machine

/-! The decoder's registers -/

/-- What RX_PAYLOAD holds at each point of a DECODE: the bytes counted by DIDX while the payload is read, with at
least one to come, and all of them from the checksum on (R146). -/
def payloadStored (s : State) : Prop :=
  match s.dstate with
  | .readPayload => s.didx.toNat < s.rxLen.toNat ∧ s.rxPayload.holds s.didx.toNat = true
  | .readChecksum | .verify | .awaitDleEnd | .awaitEtx | .done => s.rxPayload.holds s.rxLen.toNat = true
  | .idle | .awaitStart | .readType | .readLen => True

/-- The invariant of the decoder's registers, at every row of R154. -/
structure ReceiverInv (s : State) : Prop where
  rxPayload_wf : s.rxPayload.wf Config.maxPayload = true
  no_packet_while_decoding : s.dstate ≠ .idle → s.rxValid = false
  packet_held : s.rxValid = true → s.rxPayload.holds s.rxLen.toNat = true
  esc_in_field : s.dstate ≠ .idle → s.esc = true → s.dstate.isField = true
  stored : payloadStored s

/-- Without a valid packet, three of its clauses are left. -/
theorem receiverInv_of_no_packet {s : State} (hwf : s.rxPayload.wf Config.maxPayload = true)
    (hnone : s.rxValid = false) (hesc : s.esc = true → s.dstate.isField = true) (hstored : payloadStored s) :
    ReceiverInv s :=
  ⟨hwf, fun _ => hnone, by simp [hnone], fun _ => hesc, hstored⟩

/-- Outside the field states no pair is open. -/
theorem ReceiverInv.esc_of_not_field {s : State} (h : ReceiverInv s) (hd : s.dstate ≠ .idle)
    (hfield : s.dstate.isField = false) : s.esc = false :=
  Bool.of_not_eq_true fun hesc => by simp [h.esc_in_field hd hesc] at hfield

/-- Taking an error asks nothing of the decoder's registers but RX_PAYLOAD (R153). -/
theorem receiverInv_raiseError {s : State} (h : ReceiverInv s) (code : Status) : ReceiverInv (raiseError code s) :=
  ⟨h.rxPayload_wf, fun hd => absurd rfl hd, h.packet_held, fun hd => absurd rfl hd, trivial⟩

/-- The next logical byte keeps it: READ_LEN sets the counter to 0, and READ_PAYLOAD stores the byte it counts. -/
theorem receiverInv_deliver {s : State} (h : ReceiverInv s) (hd : s.dstate ≠ .idle) (hesc : s.esc = false)
    (v : Byte) : ReceiverInv (deliver v s) := by
  have hnone := h.no_packet_while_decoding hd
  have hno {d : DState} : s.esc = true → d.isField = true := by simp [hesc]
  have hstored := h.stored
  unfold deliver
  split
  next => exact receiverInv_of_no_packet h.rxPayload_wf hnone hno trivial
  next =>
    refine receiverInv_of_no_packet h.rxPayload_wf hnone hno ?_
    by_cases hv : v = 0
    · simp only [hv, if_true, payloadStored]
      exact holds_zero _
    · have hpos : 0 < v.toNat := Nat.pos_of_ne_zero fun h0 => hv (BitVec.eq_of_toNat_eq h0)
      simp only [hv, if_false, payloadStored]
      exact ⟨hpos, holds_zero _⟩
  next hd =>
    simp only [payloadStored, hd] at hstored
    obtain ⟨hlt, hheld⟩ := hstored
    have hmax : Config.maxPayload = 255 := rfl
    have hbyte := s.rxLen.isLt
    have hsucc : (s.didx + 1).toNat = s.didx.toNat + 1 := by
      rw [BitVec.toNat_add, show (1 : Byte).toNat = 1 from rfl]; omega
    have hmore := holds_succ_write hheld (show s.didx.toNat < Config.maxPayload by omega) v
    refine receiverInv_of_no_packet (Memory.wf_write _ v h.rxPayload_wf) hnone hno ?_
    by_cases hlast : s.didx + 1 = s.rxLen
    · simpa only [hlast, if_true, payloadStored, ← hsucc] using hmore
    · have hne : s.didx.toNat + 1 ≠ s.rxLen.toNat := fun heq => hlast (BitVec.eq_of_toNat_eq (hsucc.trans heq))
      simp only [hlast, if_false, payloadStored, hsucc]
      exact ⟨by omega, hmore⟩
  next hd =>
    simp only [payloadStored, hd] at hstored
    exact receiverInv_of_no_packet h.rxPayload_wf hnone hno hstored
  all_goals exact h

/-- The unescaper keeps it: ESC is set in a field state only, and cleared before a byte is delivered. -/
theorem receiverInv_fieldByte {s : State} (h : ReceiverInv s) (hfield : s.dstate.isField = true) (b : Byte) :
    ReceiverInv (fieldByte b s) := by
  have hd := DState.isField_ne_idle hfield
  unfold fieldByte
  split
  next =>
    have hcleared : ReceiverInv { s with esc := false } := { h with esc_in_field := fun _ => nofun }
    exact receiverInv_deliver hcleared hd rfl Config.dle
  next hesc =>
    split
    next => exact { h with esc_in_field := fun _ _ => hfield }
    next => exact receiverInv_deliver h hd (by simpa using hesc) b

theorem receiverInv_expectByte {s : State} {after : DState} (h : ReceiverInv s) (hd : s.dstate ≠ .idle)
    (hfield : s.dstate.isField = false) (hstored : payloadStored { s with dstate := after }) (expected b : Byte) :
    ReceiverInv (expectByte expected after b s) := by
  unfold expectByte
  split
  next =>
    exact receiverInv_of_no_packet h.rxPayload_wf (h.no_packet_while_decoding hd)
      (by simp [h.esc_of_not_field hd hfield]) hstored
  next => exact receiverInv_raiseError h _

theorem receiverInv_byteStep {s : State} (h : ReceiverInv s) (b : Byte) : ReceiverInv (byteStep b s) := by
  have hstored := h.stored
  unfold byteStep
  split
  case h_1 hd => exact receiverInv_expectByte h (by simp [hd]) (by rw [hd]; rfl) (by exact trivial) _ b
  case h_2 hd | h_3 hd | h_4 hd | h_5 hd => exact receiverInv_fieldByte h (by rw [hd]; rfl) b
  case h_6 hd | h_7 hd =>
    simp only [payloadStored, hd] at hstored
    exact receiverInv_expectByte h (by simp [hd]) (by rw [hd]; rfl) (by exact hstored) _ b
  all_goals exact h

/-- VERIFY keeps what is stored, and DONE makes it the packet. -/
theorem receiverInv_internalStep {s : State} (h : ReceiverInv s) : ReceiverInv (internalStep s) := by
  have hstored := h.stored
  unfold internalStep
  split
  next hd =>
    simp only [payloadStored, hd] at hstored
    have hrun : s.dstate ≠ .idle := by simp [hd]
    split
    next =>
      exact receiverInv_of_no_packet h.rxPayload_wf (h.no_packet_while_decoding hrun)
        (by simp [h.esc_of_not_field hrun (by rw [hd]; rfl)]) hstored
    next => exact receiverInv_raiseError h _
  next hd =>
    simp only [payloadStored, hd] at hstored
    exact ⟨h.rxPayload_wf, fun hrun => absurd rfl hrun, fun _ => hstored, fun hrun => absurd rfl hrun, trivial⟩
  all_goals exact h

/-- The request a read makes is no part of it. -/
theorem receiverInv_requestRead {s : State} (h : ReceiverInv s) (rest : List RxItem) :
    ReceiverInv (requestRead rest s) :=
  { h with }

theorem receiverInv_decodeRun (stream : List RxItem) {s : State} (h : ReceiverInv s) (hd : s.dstate ≠ .idle) :
    ReceiverInv (decodeRun stream s) := by
  refine decodeRun_induction stream s ?exhausted ?failed ?withheld ?answered h hd
  case exhausted => exact fun _ h _ => receiverInv_raiseError (receiverInv_requestRead h _) _
  case failed => exact fun _ _ h _ => receiverInv_raiseError (receiverInv_requestRead h _) _
  case withheld => exact fun _ _ h _ => receiverInv_requestRead h _
  case answered =>
    exact fun b _ _ h _ => receiverInv_internalStep (receiverInv_byteStep (receiverInv_requestRead h _) b)

/-- The start actions meet it: no packet is valid, and no byte is counted yet. -/
theorem receiverInv_startDecode {s : State} (hwf : s.rxPayload.wf Config.maxPayload = true) :
    ReceiverInv (startDecode s) :=
  receiverInv_of_no_packet hwf rfl nofun trivial

/-! A DECODE in progress -/

/-- The invariant of a DECODE that waits at a read. -/
theorem inv_of_waiting_decode {s : State} (hat : AtRead s) (hd : s.dstate ≠ .idle) (hrecv : ReceiverInv s)
    (htx : s.txPayload.wf Config.maxPayload = true) (hframe : s.frameBuf.wf Config.frameBufSize = true)
    (hwaits : s.rxStream.head? = some .withheld) : s.Inv where
  txPayload_wf := htx
  rxPayload_wf := hrecv.rxPayload_wf
  frameBuf_wf := hframe
  idle_between := by simp [(hat.running hd).busy]
  not_verify := hat.not_verify
  not_done := hat.not_done
  no_packet_while_decoding := hrecv.no_packet_while_decoding
  packet_held := hrecv.packet_held
  counter_in_range hp := by
    have hstored := hrecv.stored
    simp only [payloadStored, hp] at hstored
    exact hstored.1
  counted_held hp := by
    have hstored := hrecv.stored
    simp only [payloadStored, hp] at hstored
    exact hstored.2
  payload_held hp := by
    have hstored := hrecv.stored
    obtain hp | hp | hp := hp <;> simpa only [payloadStored, hp] using hstored
  esc_in_field := hrecv.esc_in_field
  frame_held _ hidle := absurd hidle hd
  read_waits _ := hwaits
  write_waits _ hidle := absurd hidle hd

/-- A run of the decoder leaves the invariant: it ends, or waits where it stops, and TX_PAYLOAD and FRAME_BUF are not
its own. -/
theorem inv_decodeRun (stream : List RxItem) {s : State} (hat : AtRead s) (hd : s.dstate ≠ .idle)
    (hrecv : ReceiverInv s) (htx : s.txPayload.wf Config.maxPayload = true)
    (hframe : s.frameBuf.wf Config.frameBufSize = true) : (decodeRun stream s).Inv := by
  have htx' : (decodeRun stream s).txPayload.wf Config.maxPayload = true := by
    rw [decodeRun_frame stream s]; exact htx
  have hframe' : (decodeRun stream s).frameBuf.wf Config.frameBufSize = true := by
    rw [decodeRun_frame stream s]; exact hframe
  have hrecv' := receiverInv_decodeRun stream hrecv hd
  have hat' := atRead_decodeRun stream hat hd
  obtain hruns | hended := hat'.course
  · exact inv_of_waiting_decode hat' hruns.in_progress hrecv' htx' hframe'
      ((decodeRun_ends_or_waits stream s).resolve_left hruns.in_progress)
  · exact inv_of_idle hended.busy hended.dstate_idle htx' hrecv'.rxPayload_wf hframe' hrecv'.packet_held

/-- Between steps a DECODE in progress is at a read. -/
theorem atRead_of_inv {s : State} (h : s.Inv) (hd : s.dstate ≠ .idle) : AtRead s :=
  ⟨.inl ⟨hd, Bool.of_not_eq_false fun hidle => hd (h.idle_between hidle)⟩, h.not_verify, h.not_done⟩

theorem receiverInv_of_inv {s : State} (h : s.Inv) : ReceiverInv s := by
  refine ⟨h.rxPayload_wf, h.no_packet_while_decoding, h.packet_held, h.esc_in_field, ?stored⟩
  case stored =>
    unfold payloadStored
    split
    next hp => exact ⟨h.counter_in_range hp, h.counted_held hp⟩
    next hc => exact h.payload_held (.inl hc)
    next hv => exact absurd hv h.not_verify
    next he => exact h.payload_held (.inr (.inl he))
    next he => exact h.payload_held (.inr (.inr he))
    next hv => exact absurd hv h.not_done
    all_goals trivial

/-- A DECODE that goes on leaves the invariant, whatever stream it goes on over. -/
theorem inv_resumeDecode {s : State} (h : s.Inv) (hd : s.dstate ≠ .idle) (stream : List RxItem) :
    (resumeDecode { s with rxStream := stream }).Inv := by
  have hat : AtRead { s with rxStream := stream } :=
    ⟨.inl ⟨hd, ((atRead_of_inv h hd).running hd).busy⟩, h.not_verify, h.not_done⟩
  have hrecv : ReceiverInv { s with rxStream := stream } := { receiverInv_of_inv h with }
  rw [resumeDecode_of_settled (s := { s with rxStream := stream }) hd h.not_verify h.not_done]
  exact inv_decodeRun stream hat hd hrecv h.txPayload_wf h.frameBuf_wf

/-! An ENCODE at its write -/

/-- An ENCODE about to hand its frame to the transport (R122, R125). -/
structure FrameReady (s : State) : Prop where
  busy : s.busy = true
  dstate_idle : s.dstate = .idle
  txPayload_wf : s.txPayload.wf Config.maxPayload = true
  rxPayload_wf : s.rxPayload.wf Config.maxPayload = true
  frameBuf_wf : s.frameBuf.wf Config.frameBufSize = true
  packet_held : s.rxValid = true → s.rxPayload.holds s.rxLen.toNat = true
  frame_held : 6 ≤ s.frameLen.toNat ∧ s.frameLen.toNat ≤ Config.frameBufSize ∧
    s.frameBuf.holds s.frameLen.toNat = true

/-- The write leaves the invariant, whatever the transport answers: the command is over, or its answer is withheld. -/
theorem inv_sendFrame {s t : State} (h : FrameReady s) (hsend : sendFrame s = .next t) : t.Inv := by
  obtain ⟨f, hf, -⟩ := withOperand_next hsend
  obtain ⟨u, hu, hend⟩ := sendFrame_outcomes hf
  obtain rfl : t = u := Host.Outcome.next.inj (hsend.symm.trans hu)
  have hwaits : t.busy = true → t.txAnswers.head? = some .withheld := by
    obtain ⟨hidle, -⟩ | ⟨hidle, -⟩ | ⟨-, -, -, hhead⟩ := hend
    · simp [hidle]
    · simp [hidle]
    · exact fun _ => hhead
  rw [sendFrame_frame h.dstate_idle hsend]
  exact {
    txPayload_wf := h.txPayload_wf
    rxPayload_wf := h.rxPayload_wf
    frameBuf_wf := h.frameBuf_wf
    idle_between := fun _ => h.dstate_idle
    not_verify := by simp [h.dstate_idle]
    not_done := by simp [h.dstate_idle]
    no_packet_while_decoding := fun hd => absurd h.dstate_idle hd
    packet_held := h.packet_held
    counter_in_range := by simp [h.dstate_idle]
    counted_held := by simp [h.dstate_idle]
    payload_held := by simp [h.dstate_idle]
    esc_in_field := fun hd => absurd h.dstate_idle hd
    frame_held := fun _ _ => h.frame_held
    read_waits := fun hd => absurd h.dstate_idle hd
    write_waits := fun hbusy _ => hwaits hbusy }

theorem buildFrame_frameBuf_wf (t : Byte) (p : List Byte) {s : State}
    (h : s.frameBuf.wf Config.frameBufSize = true) :
    (buildFrame t p s).frameBuf.wf Config.frameBufSize = true := by
  rw [buildFrame_eq]
  exact emitAll_wf _ _ h

/-- ENCODE builds its frame whole before it writes it. -/
theorem frameReady_buildFrame {s : State} {p : List Byte} (h : s.Inv) (hidle : s.busy = false)
    (hp : p.length ≤ Config.maxPayload) (t : Byte) : FrameReady (buildFrame t p { s with busy := true }) := by
  obtain ⟨hbytes, -, hmin, hmax, -, hfields, -⟩ := builtFrameIsTheWireFrame t p { s with busy := true } hp
  have hwf := buildFrame_frameBuf_wf t p (s := { s with busy := true }) h.frameBuf_wf
  have hheld := holds_of_readRange hbytes
  rw [hfields]
  exact ⟨rfl, h.idle_between hidle, h.txPayload_wf, h.rxPayload_wf, hwf, h.packet_held, hmin, hmax, hheld⟩

/-- A waiting ENCODE has its frame, whatever the transport answers next. -/
theorem frameReady_of_inv {s : State} (h : s.Inv) (hbusy : s.busy = true) (hd : s.dstate = .idle)
    (answers : List TxItem) : FrameReady { s with txAnswers := answers } :=
  ⟨hbusy, hd, h.txPayload_wf, h.rxPayload_wf, h.frameBuf_wf, h.packet_held, h.frame_held hbusy hd⟩

/-! Every step -/

/-- The end of an accumulator command writes neither a buffer nor a result of DECODE. -/
theorem inv_accumulatorEnd {s : State} (h : s.Inv) (hidle : s.busy = false) (acc result : Byte) (w : Written) :
    (completeOk { s with acc := acc, ckResult := result, written := w }).Inv :=
  inv_of_idle rfl (h.idle_between hidle) h.txPayload_wf h.rxPayload_wf h.frameBuf_wf h.packet_held

theorem inv_exec_accumulator {i : Instr} {s t : State} (hi : i = .ckReset ∨ i = .ckAbsorb ∨ i = .ckFinalize)
    (h : s.Inv) (hidle : s.busy = false) (hexec : exec i s = .next t) : t.Inv := by
  obtain rfl | rfl | rfl := hi
  · rw [exec_ckReset_of_idle hidle] at hexec
    cases hexec
    exact inv_accumulatorEnd h hidle 0 s.ckResult s.written
  · rw [exec_ckAbsorb_of_idle hidle] at hexec
    obtain ⟨b, -, hend⟩ := withOperand_next hexec
    cases hend
    exact inv_accumulatorEnd h hidle (add8 s.acc b) s.ckResult s.written
  · rw [exec_ckFinalize_of_idle hidle] at hexec
    cases hexec
    exact inv_accumulatorEnd h hidle s.acc (neg8 s.acc) { s.written with ckResult := true }

theorem inv_exec_encode {s t : State} (h : s.Inv) (hexec : exec .encode s = .next t) : t.Inv := by
  obtain ⟨hidle, -, -, ⟨-, rfl⟩ | ⟨hmax, p, hpayload, hsend⟩⟩ := exec_encode_next hexec
  · exact inv_of_idle rfl rfl h.txPayload_wf h.rxPayload_wf h.frameBuf_wf h.packet_held
  · obtain ⟨hlen, -⟩ := Memory.readRange_eq_ok.mp hpayload
    exact inv_sendFrame (frameReady_buildFrame h hidle (hlen.trans_le hmax) s.txType) hsend

theorem inv_exec_decode {s t : State} (h : s.Inv) (hexec : exec .decode s = .next t) : t.Inv := by
  obtain rfl := exec_decode_next hexec
  exact inv_decodeRun _ (atRead_startDecode rfl) nofun (receiverInv_startDecode h.rxPayload_wf) h.txPayload_wf
    h.frameBuf_wf

theorem inv_exec {i : Instr} {s t : State} (h : s.Inv) (hidle : s.busy = false) (hexec : exec i s = .next t) :
    t.Inv := by
  cases i with
  | ckReset => exact inv_exec_accumulator (.inl rfl) h hidle hexec
  | ckAbsorb => exact inv_exec_accumulator (.inr (.inl rfl)) h hidle hexec
  | ckFinalize => exact inv_exec_accumulator (.inr (.inr rfl)) h hidle hexec
  | encode => exact inv_exec_encode h hexec
  | decode => exact inv_exec_decode h hexec

/-- A host write goes on in an idle state only, where it gives an operand its value or issues a command. -/
theorem inv_hostWrite {num : Nat} {v : LenWord} {s t : State} (h : s.Inv) (hwrite : hostWrite num v s = .next t) :
    t.Inv := by
  obtain ⟨r, -, hdir, hidle, -, hreg⟩ := hostWrite_next hwrite
  have hdstate := h.idle_between hidle
  cases r with
  | cmd =>
    obtain ⟨i, -, hexec⟩ := runCommand_next hreg
    exact inv_exec (s := { s with cmd := v.setWidth 8 }) { h with } hidle hexec
  | din | txType | txLen =>
    cases hreg
    exact inv_of_idle hidle hdstate h.txPayload_wf h.rxPayload_wf h.frameBuf_wf h.packet_held
  | txPayload i =>
    cases hreg
    exact inv_of_idle hidle hdstate (Memory.wf_write _ _ h.txPayload_wf) h.rxPayload_wf h.frameBuf_wf h.packet_held
  | status | busy | ckResult | rxValid | rxType | rxLen | rxPayload i => cases hdir

theorem inv_hostRead {num : Nat} {s t : State} (h : s.Inv) (hread : hostRead num s = .next t) : t.Inv := by
  obtain ⟨-, v, -, -, -, -, rfl⟩ := hostRead_next hread
  exact inv_withScript h s.inputs _

/-- At a waking the ENCODE goes on with its write, the DECODE with its reads. -/
theorem inv_transportWake {s t : State} (h : s.Inv) (hwake : transportWake s = .next t) : t.Inv := by
  obtain ⟨-, rfl⟩ | ⟨hbusy, hd, hsend⟩ | ⟨-, hd, rfl⟩ := transportWake_next hwake
  · exact h
  · exact inv_sendFrame (frameReady_of_inv h hbusy hd _) hsend
  · exact inv_resumeDecode h hd _

theorem inv_perform {a : Input} {s t : State} (h : s.Inv) (hperform : perform a s = .next t) : t.Inv := by
  cases a with
  | hostWrite num v => exact inv_hostWrite h hperform
  | hostRead num => exact inv_hostRead h hperform
  | transportWake => exact inv_transportWake h hperform
  | hardReset sent => cases hperform; exact inv_hardReset sent s

/-- Settles O51: by the kind of input the step takes. -/
theorem stepKeepsInvariant : Obligations.StepKeepsInvariant := by
  intro s t h hstep
  obtain ⟨-, rfl⟩ | ⟨a, rest, -, hperform⟩ := step_next hstep
  · exact h
  · exact inv_perform (inv_withScript h rest s.hostReads) hperform

end Sys2Proof.Proofs
end

section
/-! Commands that wait on the transport (R219): a DECODE at a read and an ENCODE at its write stay as they are without
an input, and once the transport wakes they go on as if they had been answered at once. -/

namespace Sys2Proof.Proofs

open Sys2Proof.Machine

/-! A DECODE that is not answered -/

/-- Without an input nothing changes, for any number of steps. -/
theorem runSteps_of_no_input {s : State} (h : s.inputs = []) (k : Nat) : runSteps k s = .next s := by
  induction k with
  | zero => rfl
  | succ k ih => simp only [runSteps, step, h, ih]

/-- Settles O7: the first read waits, so only the start actions have been taken. -/
theorem unansweredReadWaitsForever : Obligations.UnansweredReadWaitsForever := by
  intro s rest k hidle hinputs hstream
  refine ⟨_, exec_decode_of_idle hidle, ?_⟩
  rw [hstream]
  exact ⟨rfl, rfl, rfl, rfl, runSteps_of_no_input (by exact hinputs) k⟩

/-! A DECODE that goes on -/

/-- What a read leaves in RX_STREAM and in the request is overwritten by the next read. -/
theorem decodeRun_requestRead (stream rest : List RxItem) (s : State) :
    decodeRun stream (requestRead rest s) = decodeRun stream s := by
  cases stream with
  | nil => rfl
  | cons a stream => cases a <;> rfl

/-- So a run depends on the stream it is given alone. -/
theorem decodeRun_withStream (stream rest : List RxItem) (s : State) :
    decodeRun stream { s with rxStream := rest } = decodeRun stream s := by
  cases stream with
  | nil => rfl
  | cons a stream => cases a <;> rfl

theorem exec_decode_withStream {s : State} (hidle : s.busy = false) (stream : List RxItem) :
    exec .decode { s with rxStream := stream } =
      .next (decodeRun stream (startDecode { s with busy := true })) := by
  rw [exec_decode_of_idle (s := { s with rxStream := stream }) hidle]
  exact congrArg Host.Outcome.next (decodeRun_withStream stream stream (startDecode { s with busy := true }))

theorem deliver_requestRead (v : Byte) (rest : List RxItem) (s : State) :
    deliver v (requestRead rest s) = requestRead rest (deliver v s) := by
  unfold deliver
  rw [requestRead_dstate]
  split <;> rfl

theorem fieldByte_requestRead (b : Byte) (rest : List RxItem) (s : State) :
    fieldByte b (requestRead rest s) = requestRead rest (fieldByte b s) := by
  unfold fieldByte
  rw [requestRead_esc]
  split
  next => exact deliver_requestRead Config.dle rest { s with esc := false }
  next =>
    split
    next => rfl
    next => exact deliver_requestRead b rest s

theorem expectByte_requestRead (expected b : Byte) (after : DState) (rest : List RxItem) (s : State) :
    expectByte expected after b (requestRead rest s) = requestRead rest (expectByte expected after b s) := by
  unfold expectByte
  split <;> rfl

theorem byteStep_requestRead (b : Byte) (rest : List RxItem) (s : State) :
    byteStep b (requestRead rest s) = requestRead rest (byteStep b s) := by
  unfold byteStep
  rw [requestRead_dstate]
  split
  case h_1 | h_6 | h_7 => exact expectByte_requestRead _ b _ rest s
  case h_2 | h_3 | h_4 | h_5 => exact fieldByte_requestRead b rest s
  all_goals rfl

theorem internalStep_requestRead (rest : List RxItem) (s : State) :
    internalStep (requestRead rest s) = requestRead rest (internalStep s) := by
  unfold internalStep
  rw [requestRead_dstate]
  split
  next => rw [requestRead_dacc]; split <;> rfl
  all_goals rfl

/-- The rows of R154 see the byte read, and not what is left of the stream. -/
theorem decodeByte_requestRead (b : Byte) (rest : List RxItem) (s : State) :
    decodeByte b (requestRead rest s) = requestRead rest (decodeByte b s) := by
  rw [decodeByte, byteStep_requestRead, internalStep_requestRead, decodeByte]

/-- A DECODE goes on over the rest of the stream unless the byte read has ended it. -/
theorem decodeRun_byte_of_goes {b : Byte} {s : State} (h : (decodeByte b s).dstate ≠ .idle) (rest : List RxItem) :
    decodeRun (.byte b :: rest) s = decodeRun rest (decodeByte b s) := by
  rw [decodeRun_byte, decodeByte_requestRead, requestRead_dstate, if_neg h, decodeRun_requestRead]

theorem decodeRun_byte_of_ends {b : Byte} {s : State} (h : (decodeByte b s).dstate = .idle) (rest : List RxItem) :
    decodeRun (.byte b :: rest) s = requestRead rest (decodeByte b s) := by
  rw [decodeRun_byte, decodeByte_requestRead, requestRead_dstate, if_pos h]

/-- The wait taken out of a run: a DECODE that stops at a withheld answer goes on, once that is gone, as the run over
the stream without it. -/
theorem resumeDecode_decodeRun {before after : List RxItem} {s : State} (hat : AtRead s) (hd : s.dstate ≠ .idle)
    (hbefore : neverWithheld before)
    (hwaits : (decodeRun (before ++ .withheld :: after) s).busy = true) :
    (decodeRun (before ++ .withheld :: after) s).dstate ≠ .idle ∧
    (decodeRun (before ++ .withheld :: after) s).rxStream = .withheld :: after ∧
    resumeDecode { decodeRun (before ++ .withheld :: after) s with rxStream := after } =
      decodeRun (before ++ after) s := by
  induction before generalizing s with
  | nil =>
    refine ⟨hd, rfl, ?_⟩
    calc resumeDecode (requestRead after s)
        = decodeRun after (requestRead after s) :=
          resumeDecode_of_settled (s := requestRead after s) hd hat.not_verify hat.not_done
      _ = decodeRun after s := decodeRun_requestRead after after s
  | cons a before ih =>
    simp only [neverWithheld, List.mem_cons, not_or] at hbefore
    obtain ⟨ha, hbefore⟩ := hbefore
    cases a with
    | withheld => exact absurd rfl ha
    | fail => cases hwaits
    | byte b =>
      have hstep := atRead_decodeByte (hat.running hd) b
      by_cases hended : (decodeByte b s).dstate = .idle
      · have hover : (decodeByte b s).busy = false :=
          (hstep.course.resolve_left fun hruns => hruns.in_progress hended).busy
        rw [List.cons_append, decodeRun_byte_of_ends hended, requestRead_busy, hover] at hwaits
        cases hwaits
      · simp only [List.cons_append, decodeRun_byte_of_goes hended] at hwaits ⊢
        exact ih hstep hended hbefore hwaits

/-- A waking takes the withheld answer from the stream of a DECODE in progress. -/
theorem transportWake_of_receiving {s : State} {after : List RxItem} (hbusy : s.busy = true) (hd : s.dstate ≠ .idle)
    (hstream : s.rxStream = .withheld :: after) :
    transportWake s = .next (resumeDecode { s with rxStream := after }) := by
  simp [transportWake, hbusy, hd, hstream, wakeRx]

/-- Settles O38: the run up to the wait, the waking, and the rest are the run over the stream without the wait. -/
theorem waitingDecodeGoesOn : Obligations.WaitingDecodeGoesOn := by
  intro s t before after hidle hbefore hstream hexec hbusy
  have ht : t = decodeRun (before ++ .withheld :: after) (startDecode { s with busy := true }) :=
    (exec_decode_next hexec).trans (congrArg (decodeRun · _) hstream)
  rw [ht] at hbusy ⊢
  obtain ⟨hd, hleft, hresume⟩ := resumeDecode_decodeRun (atRead_startDecode rfl) nofun hbefore hbusy
  rw [transportWake_of_receiving hbusy hd hleft, hresume, exec_decode_withStream hidle]

/-! An ENCODE at its write -/

theorem emitAll_withAnswers (bs : List Byte) (answers : List TxItem) (s : State) :
    emitAll bs { s with txAnswers := answers } = { emitAll bs s with txAnswers := answers } := by
  induction bs generalizing s with
  | nil => rfl
  | cons b bs ih => exact ih (emit b s)

/-- Building a frame asks the transport nothing. -/
theorem buildFrame_withAnswers (t : Byte) (p : List Byte) (answers : List TxItem) (s : State) :
    buildFrame t p { s with txAnswers := answers } = { buildFrame t p s with txAnswers := answers } := by
  have hemit := emitAll_withAnswers (encodeFrame t p) answers { s with frameLen := 0 }
  rw [buildFrame_eq, buildFrame_eq]
  exact congrArg (fun u : State => { u with eacc := add8 (add8 t (BitVec.ofNat 8 p.length)) (sum8 p) }) hemit

@[simp] theorem buildFrame_dstate (t : Byte) (p : List Byte) (s : State) :
    (buildFrame t p s).dstate = s.dstate := by
  rw [buildFrame_frame]

/-- An accepted write sends the whole frame and ends the command with OK (R53, R125). -/
theorem sendFrame_of_ok {s : State} {f : List Byte} {rest : List TxItem} (hf : frameBytes s = .ok f)
    (h : s.txAnswers = .ok :: rest) :
    sendFrame s = .next (completeOk { s with txAnswers := rest, txLog := s.txLog ++ f }) := by
  simp [sendFrame, hf, txWrite, nextTxAnswer, h]

theorem txWrite_of_withheld {s : State} {rest : List TxItem} (h : s.txAnswers = .withheld :: rest)
    (f : List Byte) : txWrite f s = (.waiting, s) := by
  have hsame : { s with txAnswers := .withheld :: rest } = s := by rw [← h]
  simpa only [txWrite, nextTxAnswer, h, Prod.mk.injEq, true_and] using hsame

/-- A write that is not answered changes nothing (R219). -/
theorem sendFrame_of_withheld {s : State} {f : List Byte} {rest : List TxItem} (hf : frameBytes s = .ok f)
    (h : s.txAnswers = .withheld :: rest) : sendFrame s = .next s := by
  rw [sendFrame, hf, withOperand_ok, txWrite_of_withheld h]

/-- A waking takes the withheld answer from an ENCODE in progress. -/
theorem transportWake_of_sending {s : State} {rest : List TxItem} (hbusy : s.busy = true) (hd : s.dstate = .idle)
    (hanswers : s.txAnswers = .withheld :: rest) :
    transportWake s = sendFrame { s with txAnswers := rest } := by
  simp [transportWake, hbusy, hd, hanswers, wakeTx]

/-- Settles O20: the waiting state is the one with its frame built; the waking hands that frame to the transport
again, as ENCODE does whose answers have no wait. -/
theorem encodeWaitsThenSends : Obligations.EncodeWaitsThenSends := by
  intro s p rest hidle hdstate htype hlenWritten hmax hlen hbytes hanswers
  have hfit : (encodeFrame s.txType p).length ≤ Config.frameBufSize := encodeFrame_length_le (hlen.trans_le hmax)
  have hframe := frameBytes_buildFrame { s with busy := true } hfit
  set t := buildFrame s.txType p { s with busy := true } with ht
  have hbusy : t.busy = true := by simp [ht]
  have hlog : t.txLog = s.txLog := by simp [ht]
  have hstatus : t.status = s.status := by simp [ht]
  have htanswers : t.txAnswers = .withheld :: rest := by simp [ht, hanswers]
  have hwaiting : exec .encode s = .next t := by
    rw [exec_encode_of_operands hidle htype hlenWritten hmax hlen hbytes, sendFrame_of_withheld hframe htanswers]
  have hwake : transportWake t = sendFrame { t with txAnswers := rest } :=
    transportWake_of_sending hbusy (by simp [ht, hdstate]) htanswers
  have honce : exec .encode { s with txAnswers := rest } = sendFrame { t with txAnswers := rest } := by
    rw [exec_encode_of_operands (s := { s with txAnswers := rest }) hidle htype hlenWritten hmax hlen hbytes, ht,
      ← buildFrame_withAnswers]
  refine ⟨t, hwaiting, hbusy, hlog, hstatus, hwake.trans honce.symm,
    fun later hok => ?ok, fun sent later hfail => ?fail, fun later hwithheld => ?withheld⟩
  case ok =>
    rw [hwake, sendFrame_of_ok (by exact hframe) hok]
    exact ⟨_, rfl, rfl, rfl, by simp [hlog], rfl⟩
  case fail =>
    rw [hwake, sendFrame_of_fail (by exact hframe) hfail]
    exact ⟨_, rfl, rfl, rfl, by simp [hlog], rfl⟩
  case withheld => rw [hwake, sendFrame_of_withheld (by exact hframe) hwithheld]

end Sys2Proof.Proofs
end

section
/-! While BUSY = 1 the block refuses commands and the accesses of R214, and a command that ends leaves a STATUS that the
host can read (R26, R74, R185). -/

namespace Sys2Proof.Proofs

open Sys2Proof.Machine

/-! Accesses while BUSY = 1 -/

theorem exec_of_busy {s : State} (hbusy : s.busy = true) (i : Instr) : exec i s = .refused .commandWhileBusy := by
  cases i with
  | ckReset => exact exec_accumulator_of_busy (.inl rfl) hbusy
  | ckAbsorb => exact exec_accumulator_of_busy (.inr (.inl rfl)) hbusy
  | ckFinalize => exact exec_accumulator_of_busy (.inr (.inr rfl)) hbusy
  | encode => rw [exec, execEncode, issue_busy hbusy]
  | decode => rw [exec, execDecode, issue_busy hbusy]

/-- Every register the host may write is held (R214). -/
theorem heldWhileBusy_of_writable {r : Reg} (h : r.hostWritable = true) : r.heldWhileBusy = true := by
  cases r with
  | cmd | din | txType | txLen | txPayload i => rfl
  | status | busy | ckResult | rxValid | rxType | rxLen | rxPayload i => cases h

/-- STATUS, BUSY and CK_RESULT alone are not (R214, log 10). -/
theorem heldWhileBusy_iff (r : Reg) : r.heldWhileBusy = true ↔ r ≠ .status ∧ r ≠ .busy ∧ r ≠ .ckResult := by
  cases r <;> simp [Reg.heldWhileBusy]

theorem hostWrite_of_busy {r : Reg} {s : State} (hbusy : s.busy = true) (hdir : r.hostWritable = true)
    (v : LenWord) : hostWrite r.number v s = .refused (.accessWhileBusy r.number) := by
  simp [hostWrite, hdir, hbusy, heldWhileBusy_of_writable hdir]

theorem hostRead_of_busy {r : Reg} {s : State} (hbusy : s.busy = true) (hdir : r.hostReadable = true)
    (hheld : r.heldWhileBusy = true) : hostRead r.number s = .refused (.accessWhileBusy r.number) := by
  simp [hostRead, hdir, hbusy, hheld]

/-- A register that is not held and holds a value is read at any time. -/
theorem readAnswers_of_not_held {r : Reg} {v : LenWord} {s : State} (hdir : r.hostReadable = true)
    (hheld : r.heldWhileBusy = false) (hv : readReg r s = .ok v) : readAnswers r.number v s := by
  simp [readAnswers, hostRead, hdir, hheld, hv]

/-- Settles O42: the registers that are held, and BUSY, which is not. -/
theorem accessesWhileBusyRefused : Obligations.AccessesWhileBusyRefused := by
  intro s hbusy
  refine ⟨exec_of_busy hbusy, fun r v hdir => hostWrite_of_busy hbusy hdir v,
    fun r hdir hstatus hb hck => hostRead_of_busy hbusy hdir ((heldWhileBusy_iff r).mpr ⟨hstatus, hb, hck⟩), ?busy⟩
  case busy =>
    exact readAnswers_of_not_held (r := .busy) rfl rfl (by simp [readReg, flagValue, hbusy])

/-! The end of a command -/

/-- A STATUS once written is read by its code, while a command runs and after it (R26, R74). -/
theorem readAnswers_status {s : State} (h : s.written.status = true) :
    readAnswers 0x02 ((statusCode s.status).setWidth Config.lenW) s :=
  readAnswers_of_not_held (r := .status) rfl rfl (by simp [readReg, readMarked, h])

/-- A write that ends its command ends it with OK or with TransportError (R125, R127). -/
theorem sendFrame_ended {s t : State} (hbusy : s.busy = true) (hsend : sendFrame s = .next t)
    (hended : t.busy = false) : t.written.status = true ∧ (t.status = .ok ∨ t.status = .transportError) := by
  obtain ⟨f, -, ⟨u, -, rfl⟩ | ⟨u, -, rfl⟩ | hwaiting⟩ := sendFrame_cases hsend
  · exact ⟨rfl, .inl rfl⟩
  · exact ⟨rfl, .inr rfl⟩
  · have hkept : t.busy = s.busy := by
      obtain ⟨sent, k, hw⟩ | ⟨k, hw⟩ | ⟨k, hw⟩ := txWrite_cases f s <;> rw [hw] at hwaiting <;> cases hwaiting
      rfl
    rw [hkept, hbusy] at hended
    cases hended

/-- The codes each command can end with when it is issued (R74). -/
theorem exec_ended {i : Instr} {s t : State} (hexec : exec i s = .next t) (hended : t.busy = false) :
    t.written.status = true ∧ (t.status = .payloadTooLarge → i = .encode) ∧
      (t.status = .framingError ∨ t.status = .checksumMismatch → i = .decode) := by
  have haccumulator (hi : i = .ckReset ∨ i = .ckAbsorb ∨ i = .ckFinalize) :
      t.written.status = true ∧ t.status = .ok := by
    obtain ⟨-, h⟩ | ⟨-, -, h⟩ | ⟨u, h⟩ := exec_accumulator_cases s hi <;> rw [h] at hexec <;> cases hexec
    exact ⟨rfl, rfl⟩
  cases i with
  | ckReset => obtain ⟨hw, hok⟩ := haccumulator (.inl rfl); simp [hw, hok]
  | ckAbsorb => obtain ⟨hw, hok⟩ := haccumulator (.inr (.inl rfl)); simp [hw, hok]
  | ckFinalize => obtain ⟨hw, hok⟩ := haccumulator (.inr (.inr rfl)); simp [hw, hok]
  | encode =>
    obtain ⟨-, -, -, ⟨-, rfl⟩ | ⟨-, p, -, hsend⟩⟩ := exec_encode_next hexec
    · simp
    · obtain ⟨hw, hok | herror⟩ := sendFrame_ended (by simp) hsend hended
      · simp [hw, hok]
      · simp [hw, herror]
  | decode =>
    obtain rfl := exec_decode_next hexec
    have hend := (atRead_decodeRun _ (atRead_startDecode rfl) nofun).reported hended
    exact ⟨hend.written, fun h => absurd h hend.code, fun _ => rfl⟩

/-- The codes a command that waited can end with when the transport wakes (R74). -/
theorem transportWake_ended {s t : State} (hbusy : s.busy = true) (hwake : transportWake s = .next t)
    (hended : t.busy = false) :
    t.written.status = true ∧ t.status ≠ .payloadTooLarge ∧
      (t.status = .framingError ∨ t.status = .checksumMismatch → s.dstate ≠ .idle) := by
  obtain ⟨hidle, -⟩ | ⟨-, -, hsend⟩ | ⟨-, hd, rfl⟩ := transportWake_next hwake
  · rw [hbusy] at hidle
    cases hidle
  · obtain ⟨hw, hok | herror⟩ := sendFrame_ended (by exact hbusy) hsend hended
    · simp [hw, hok]
    · simp [hw, herror]
  · have hend := (atRead_resumeDecode (s := { s with rxStream := wakeRx s.rxStream }) ⟨hd, hbusy⟩).reported hended
    exact ⟨hend.written, hend.code, fun _ => hd⟩

/-- Settles O44: the codes of each end, at once and after a wait, in a STATUS that is then written. -/
theorem everyEndedCommandLeavesAStatus : Obligations.EveryEndedCommandLeavesAStatus := by
  refine ⟨fun i s t hexec hended => ?issued, fun s t hbusy hwake hended => ?woken⟩
  case issued =>
    obtain ⟨hw, hcodes⟩ := exec_ended hexec hended
    exact ⟨hw, readAnswers_status hw, hcodes⟩
  case woken =>
    obtain ⟨hw, hcodes⟩ := transportWake_ended hbusy hwake hended
    exact ⟨hw, readAnswers_status hw, hcodes⟩

end Sys2Proof.Proofs
end

section
/-! The register map and the port in an idle state (R21, R22, R25, R55): what each register's number names, what a host
write leaves readable, what a host read answers, and what a word written to CMD runs. -/

namespace Sys2Proof.Proofs

open Sys2Proof.Machine

/-! Numbers and codes -/

/-- Settles O2: the decoder's round trip for every command; the words themselves are closed instances. -/
theorem tableWordsDecode : Obligations.TableWordsDecode :=
  ⟨fun i _ => decodeCommand_encodeCommand i, rfl, rfl, rfl, rfl, rfl, rfl⟩

theorem number_of_scalar {n : Nat} {r : Reg} (h : Reg.scalar n = some r) : r.number = n := by
  match n with
  | 0 | 1 | 2 | 3 | 4 | 5 | 6 | 7 | 8 | 9 => cases h; rfl
  | n + 10 => cases h

/-- A number names at most the register that carries it. -/
theorem number_of_ofNumber {n : Nat} {r : Reg} (h : Reg.ofNumber n = some r) : r.number = n := by
  unfold Reg.ofNumber at h
  split at h
  next htx => cases h; exact Nat.add_sub_cancel' htx.1
  next =>
    split at h
    next hrx => cases h; exact Nat.add_sub_cancel' hrx.1
    next => exact number_of_scalar h

/-- Settles O4: each direction of the map undoes the other. -/
theorem registerNumbersRoundTrip : Obligations.RegisterNumbersRoundTrip :=
  ⟨ofNumber_number, fun _ _ => number_of_ofNumber⟩

/-- Settles O45: both tables of codes, and their bounds by the cases of the two types. -/
theorem statusAndStateCodes : Obligations.StatusAndStateCodes := by
  refine ⟨rfl, rfl, fun c => ?_, fun d => ?_⟩
  · cases c <;> decide
  · cases d <;> decide

/-- Settles O48: no mark of `written` is set, and the buffers are empty. -/
theorem resetState : Obligations.ResetState := by
  refine ⟨rfl, rfl, rfl, rfl, fun r => ?held, rfl, fun i => ⟨rfl, rfl, rfl⟩⟩
  case held => cases r <;> simp [valueHeld, State.reset]

/-! A word written to CMD -/

theorem runCommand_of_ok {w : Byte} {i : Instr} (h : decodeCommand w = .ok i) (s : State) :
    runCommand w s = exec i { s with cmd := w } := by
  rw [runCommand, h]

/-- The write of a row of the opcode table is the host write of its word. -/
theorem tableInput_byte (w : Byte) : tableInput 8 w.toNat = .hostWrite 0x00 (w.setWidth Config.lenW) := by
  have hword : commandWord 8 w.toNat = w := by
    rw [commandWord, Nat.mod_eq_of_lt w.isLt, BitVec.ofNat_toNat, BitVec.setWidth_eq]
  rw [tableInput, hword]
  rfl

/-- A step whose input writes a word of a command runs the command. -/
theorem step_of_command {s : State} {w : Byte} {i : Instr} {rest : List Input} (hidle : s.busy = false)
    (hword : decodeCommand w = .ok i) (hinputs : s.inputs = .hostWrite 0x00 (w.setWidth Config.lenW) :: rest) :
    step s = exec i { s with inputs := rest, cmd := w } :=
  calc step s
      = hostWrite 0x00 (w.setWidth Config.lenW) { s with inputs := rest } := step_of_inputs hinputs
    _ = runCommand w { s with inputs := rest } := hostWrite_cmd (s := { s with inputs := rest }) hidle w
    _ = exec i { s with inputs := rest, cmd := w } := runCommand_of_ok hword _

/-- Settles O6: the step on the written word, and on the word `withFetchWord` places. -/
theorem stepRunsDecodedCommand : Obligations.StepRunsDecodedCommand := by
  intro s w i hidle hword
  refine ⟨fun rest hinputs => step_of_command hidle hword hinputs, ?_⟩
  exact step_of_command (s := s.withFetchWord 8 w.toNat) hidle hword
    (congrArg (· :: s.inputs) (tableInput_byte w))

/-! Operands written by the host -/

/-- Settles O40: the port passes the byte on to DIN. -/
theorem hostWriteOfDin : Obligations.HostWriteOfDin := by
  intro s b hidle
  calc hostWrite 0x01 (b.setWidth Config.lenW) s
      = writeReg .din (b.setWidth Config.lenW) s := hostWrite_of_admitted (r := .din) rfl hidle (fits_byte rfl b)
    _ = .next { s with din := b, written := { s.written with din := true } } := by
        rw [writeReg, setWidth_lenW_setWidth_byte]

/-- A value that fits an 8-bit register is a byte. -/
theorem setWidth_byte_of_fits {r : Reg} {v : LenWord} (hwidth : r.width = 8) (hfits : r.fits v = true) :
    (v.setWidth 8).setWidth Config.lenW = v := by
  have hv : v.toNat < 2 ^ 8 := by simpa [Reg.fits, hwidth] using hfits
  refine BitVec.eq_of_toNat_eq ?_
  rw [BitVec.toNat_setWidth, BitVec.toNat_setWidth, Nat.mod_eq_of_lt hv, Nat.mod_eq_of_lt v.isLt]

/-- A register that holds a value is read in an idle state. -/
theorem readAnswers_of_idle {r : Reg} {v : LenWord} {s : State} (hidle : s.busy = false)
    (hdir : r.hostReadable = true) (hv : readReg r s = .ok v) : readAnswers r.number v s := by
  simp [readAnswers, hostRead, hdir, hidle, hv]

/-- A register that holds no value gives the read its fault. -/
theorem hostRead_of_fault {r : Reg} {e : Fault} {s : State} (hidle : s.busy = false)
    (hdir : r.hostReadable = true) (he : readReg r s = .error e) : hostRead r.number s = .fault e := by
  simp [hostRead, hdir, hidle, he]

/-- The registers a host may both write and read are operands of ENCODE. What is written to one is read back, the
others read as before, and the rest of the block is as it was. -/
theorem writeReg_readable {r : Reg} {v : LenWord} {s : State} (hwrite : r.hostWritable = true)
    (hread : r.hostReadable = true) (hfits : r.fits v = true) :
    ∃ t, writeReg r v s = .next t ∧ readReg r t = .ok v ∧ (∀ r', r' ≠ r → readReg r' t = readReg r' s) ∧
      t = { s with
        txType := t.txType, txLen := t.txLen, txPayload := t.txPayload
        written := { s.written with txType := t.written.txType, txLen := t.written.txLen } } := by
  cases r with
  | cmd | din => cases hread
  | status | busy | ckResult | rxValid | rxType | rxLen | rxPayload i => cases hwrite
  | txType =>
    have hbyte := setWidth_byte_of_fits rfl hfits
    refine ⟨_, rfl, by simp [readReg, readMarked, hbyte], fun r' hne => ?_, rfl⟩
    cases r' with
    | txType => exact absurd rfl hne
    | _ => rfl
  | txLen =>
    refine ⟨_, rfl, by simp [readReg, readMarked], fun r' hne => ?_, rfl⟩
    cases r' with
    | txLen => exact absurd rfl hne
    | _ => rfl
  | txPayload i =>
    have hbyte := setWidth_byte_of_fits rfl hfits
    have hback := Memory.read_write_same (size := Config.maxPayload) s.txPayload (v.setWidth 8) i.isLt
    refine ⟨_, rfl, by simp [readReg, readBufferByte, hback, hbyte], fun r' hne => ?_, rfl⟩
    cases r' with
    | txPayload j =>
      have hij : i.val ≠ j.val := fun h => hne (by rw [Fin.ext h])
      simp only [readReg, readBufferByte, Memory.read_write_other _ _ hij]
    | _ => rfl

/-- Settles O39: the write is admitted, and the port then reads the register as it now stands. -/
theorem hostReadsBackWhatItWrote : Obligations.HostReadsBackWhatItWrote := by
  intro s r v hidle hwrite hread hfits
  obtain ⟨t, hwritten, hback, hothers, hframe⟩ := writeReg_readable (s := s) hwrite hread hfits
  have hidle' : t.busy = false := by rw [hframe]; exact hidle
  exact ⟨t, (hostWrite_of_admitted hwrite hidle hfits).trans hwritten, readAnswers_of_idle hidle' hread hback,
    hothers, hframe⟩

/-! What a host read answers -/

/-- The received bytes below RX_LEN are read while a packet is valid (R33). -/
theorem readReg_rxPayload (i : Fin 255) (s : State) :
    readReg (.rxPayload i) s =
      if s.rxValid = true ∧ i.val < s.rxLen.toNat then readBufferByte s.rxPayload missingRxByte i.val
      else .error (missingRxByte i.val) := by
  simp [readReg]

theorem readMarked_of_held {α : Type} {mark : Bool} (h : mark = true) (r : Reg) (v : α) :
    readMarked mark r v = .ok v := if_pos h

theorem readMarked_of_not_held {α : Type} {mark : Bool} (h : mark = false) (r : Reg) (v : α) :
    readMarked mark r v = .error (.unspecifiedRead r.number) := by simp [readMarked, h]

theorem readBufferByte_of_some {m : Memory} {i : Nat} {b : Byte} (h : m.read i = some b) (missing : Nat → Fault) :
    readBufferByte m missing i = .ok (b.setWidth Config.lenW) := by rw [readBufferByte, h]

theorem readBufferByte_of_none {m : Memory} {i : Nat} (h : m.read i = none) (missing : Nat → Fault) :
    readBufferByte m missing i = .error (missing i) := by rw [readBufferByte, h]

theorem isOk_readBufferByte {m : Memory} {i : Nat} (h : (m.read i).isSome = true) (missing : Nat → Fault) :
    ∃ v, readBufferByte m missing i = .ok v := by
  obtain ⟨b, hb⟩ := Option.isSome_iff_exists.mp h
  exact ⟨_, readBufferByte_of_some hb missing⟩

/-- A readable register that holds a value answers one (R22). -/
theorem readReg_of_held {r : Reg} {s : State} (hdir : r.hostReadable = true) (h : valueHeld r s = true) :
    ∃ v, readReg r s = .ok v := by
  cases r with
  | cmd | din => cases hdir
  | busy | rxValid => exact ⟨_, rfl⟩
  | status | ckResult | txType | txLen | rxType | rxLen => exact ⟨_, readMarked_of_held h _ _⟩
  | txPayload i => exact isOk_readBufferByte h _
  | rxPayload i =>
    simp only [valueHeld, Bool.and_eq_true, decide_eq_true_eq] at h
    obtain ⟨hin, hheld⟩ := h
    rw [readReg_rxPayload, if_pos hin]
    exact isOk_readBufferByte hheld _

/-- A register that holds none is named by its fault (R22, R31, R33). -/
theorem readReg_of_not_held {r : Reg} {s : State} (h : valueHeld r s = false) :
    readReg r s = .error (.unspecifiedRead r.number) := by
  cases r with
  | cmd | din => rfl
  | busy | rxValid => cases h
  | status | ckResult | txType | txLen | rxType | rxLen => exact readMarked_of_not_held h _ _
  | txPayload i => exact readBufferByte_of_none (Option.not_isSome_iff_eq_none.mp (by simpa [valueHeld] using h)) _
  | rxPayload i =>
    rw [readReg_rxPayload]
    split
    next hin => exact readBufferByte_of_none (by simpa [valueHeld, hin] using h) _
    next => rfl

/-- So a host read that nothing holds back goes on exactly when the register holds a value. -/
theorem readReg_eq_ok_iff {r : Reg} {s : State} (hdir : r.hostReadable = true) :
    (∃ v, readReg r s = .ok v) ↔ valueHeld r s = true := by
  refine ⟨fun ⟨v, hv⟩ => Bool.of_not_eq_false fun hnone => ?_, readReg_of_held hdir⟩
  rw [readReg_of_not_held hnone] at hv
  cases hv

theorem hostRead_of_not_held {r : Reg} {s : State} (hidle : s.busy = false) (hdir : r.hostReadable = true)
    (h : valueHeld r s = false) : hostRead r.number s = .fault (.unspecifiedRead r.number) :=
  hostRead_of_fault hidle hdir (readReg_of_not_held h)

theorem readAnswers_iff {r : Reg} {v : LenWord} {s : State} (hidle : s.busy = false) (hdir : r.hostReadable = true) :
    readAnswers r.number v s ↔ readReg r s = .ok v := by
  refine ⟨fun h => ?_, readAnswers_of_idle hidle hdir⟩
  obtain ⟨r', v', hr', -, -, hv', hnext⟩ := hostRead_next h
  rw [ofNumber_number] at hr'
  cases hr'
  have hreads := congrArg State.hostReads hnext
  simp only [List.append_cancel_left_eq, List.cons.injEq, Prod.mk.injEq, true_and, and_true] at hreads
  rw [hreads, hv']

/-- Settles O41: the answers through each register's own read, the faults through `valueHeld`. -/
theorem unspecifiedRegistersFault : Obligations.UnspecifiedRegistersFault := by
  intro s hidle
  refine ⟨fun h => ?status, ?busy, fun h => ?ckResult, fun h => ?txType, fun h => ?txLen, ?rxValid,
    fun h => ⟨?rxType, ?rxLen⟩, fun i b hi hb => ?txPayload, fun i b hlt hi hvalid hb => ?rxPayload,
    fun h => ?noStatus, fun h => ?noCkResult, fun h => ?noTxType, fun h => ?noTxLen,
    fun h => ⟨?noRxType, ?noRxLen⟩, fun i hi hnone => ?noTxPayload, fun i hi hnone => ?noRxPayload,
    fun r hdir => ⟨?iff, hostRead_of_not_held hidle hdir⟩⟩
  case status => exact readAnswers_of_idle (r := .status) hidle rfl (readMarked_of_held h _ _)
  case busy => exact readAnswers_of_idle (r := .busy) hidle rfl (by simp [readReg, flagValue, hidle])
  case ckResult => exact readAnswers_of_idle (r := .ckResult) hidle rfl (readMarked_of_held h _ _)
  case txType => exact readAnswers_of_idle (r := .txType) hidle rfl (readMarked_of_held h _ _)
  case txLen => exact readAnswers_of_idle (r := .txLen) hidle rfl (readMarked_of_held h _ _)
  case rxValid => exact readAnswers_of_idle (r := .rxValid) hidle rfl rfl
  case rxType => exact readAnswers_of_idle (r := .rxType) hidle rfl (readMarked_of_held h _ _)
  case rxLen => exact readAnswers_of_idle (r := .rxLen) hidle rfl (readMarked_of_held h _ _)
  case txPayload => exact readAnswers_of_idle (r := .txPayload ⟨i, hi⟩) hidle rfl (readBufferByte_of_some hb _)
  case rxPayload =>
    refine readAnswers_of_idle (r := .rxPayload ⟨i, hi⟩) hidle rfl ?_
    rw [readReg_rxPayload, if_pos ⟨hvalid, hlt⟩]
    exact readBufferByte_of_some hb _
  case noStatus => exact hostRead_of_not_held (r := .status) hidle rfl h
  case noCkResult => exact hostRead_of_not_held (r := .ckResult) hidle rfl h
  case noTxType => exact hostRead_of_not_held (r := .txType) hidle rfl h
  case noTxLen => exact hostRead_of_not_held (r := .txLen) hidle rfl h
  case noRxType => exact hostRead_of_not_held (r := .rxType) hidle rfl h
  case noRxLen => exact hostRead_of_not_held (r := .rxLen) hidle rfl h
  case noTxPayload => exact hostRead_of_not_held (r := .txPayload ⟨i, hi⟩) hidle rfl (by simp [valueHeld, hnone])
  case noRxPayload =>
    refine hostRead_of_not_held (r := .rxPayload ⟨i, hi⟩) hidle rfl ?_
    obtain hnone | hnone | hnone := hnone
    · simp [valueHeld, hnone]
    · simp [valueHeld, Nat.not_lt.mpr hnone]
    · simp [valueHeld, hnone]
  case iff =>
    rw [← readReg_eq_ok_iff hdir]
    exact exists_congr fun v => readAnswers_iff hidle hdir

end Sys2Proof.Proofs
end

section
/-! ENCODE's results (R11, R85, R125): how long its frame is, what a sent frame leaves behind, and which unwritten
operand it names. -/

namespace Sys2Proof.Proofs

open Sys2Proof.Machine

/-! The length of a frame -/

theorem dleCount_eq_count (bs : List Byte) : dleCount bs = bs.count 0x10 := rfl

/-- Settles O15: R85's formula, its D written as a count. -/
theorem frameLengthFormula : Obligations.FrameLengthFormula := by
  intro t p _
  rw [encodeFrame_length, frameLength, dleCount_eq_count]

theorem dleCount_append (as bs : List Byte) : dleCount (as ++ bs) = dleCount as + dleCount bs := List.countP_append

theorem dleCount_replicate (n : Nat) : dleCount (List.replicate n Config.dle) = n := by
  have hall := (dleCount_eq_length_iff (List.replicate n Config.dle)).mpr fun _ => List.eq_of_mem_replicate
  rwa [List.length_replicate] at hall

/-- The longest frame is that of 255 bytes DLE under typeID 1, which make the checksum DLE too (R11, V33). -/
theorem encodeFrame_length_longest : (encodeFrame 0x01 (List.replicate 255 Config.dle)).length = 517 := by
  have hck : packetChecksum 0x01 (List.replicate 255 Config.dle) = Config.dle := by
    rw [packetChecksum, sum8_replicate, List.length_replicate]
    rfl
  have hhead : dleCount [0x01, BitVec.ofNat 8 255] = 0 := rfl
  have hlast : dleCount [Config.dle] = 1 := rfl
  rw [encodeFrame_length, frameLength, hck, dleCount_append, dleCount_append, dleCount_replicate,
    List.length_replicate, hhead, hlast]

/-- Settles O16: the bounds of every frame, the empty packet of type 0, and the longest frame. -/
theorem frameLengthBounds : Obligations.FrameLengthBounds := by
  refine ⟨fun t p hp => ⟨six_le_encodeFrame_length t p, encodeFrame_length_le hp⟩, ⟨0, [], ?_, ?_⟩,
    ⟨0x01, List.replicate 255 Config.dle, List.length_replicate.le, encodeFrame_length_longest⟩⟩
  · exact Nat.zero_le _
  · decide

/-! The command -/

/-- Settles O17: the built frame stands in FRAME_BUF and is sent whole; the accepted write touches neither. -/
theorem encodeSendsTheFrame : Obligations.EncodeSendsTheFrame := by
  intro s p rest hidle htype hlenWritten hmax hlen hbytes hanswer
  obtain ⟨hframe, -, -, -, -, hfields, hbeyond⟩ :=
    builtFrameIsTheWireFrame s.txType p { s with busy := true } (hlen.trans_le hmax)
  have hanswer' : (buildFrame s.txType p { s with busy := true }).txAnswers = .ok :: rest := by
    rw [buildFrame_txAnswers]; exact hanswer
  rw [exec_encode_of_operands hidle htype hlenWritten hmax hlen hbytes, sendFrame_of_ok hframe hanswer']
  generalize buildFrame s.txType p { s with busy := true } = u at hframe hfields hbeyond
  refine ⟨_, rfl, ?others, hframe, hbeyond⟩
  case others => rw [hfields]; rfl

/-- An operand never written is named by its fault (R22). -/
theorem readTxType_of_unwritten {s : State} (h : s.written.txType = false) :
    readTxType s = .error (.unspecifiedRead 0x05) := readMarked_of_not_held h _ _

theorem readTxLen_of_unwritten {s : State} (h : s.written.txLen = false) :
    readTxLen s = .error (.unspecifiedRead 0x06) := readMarked_of_not_held h _ _

/-- The first payload byte below TX_LEN that holds no value is named by its fault (R30). -/
theorem readTxPayload_of_missing {s : State} {n k : Nat} (hk : k < n)
    (hbefore : ∀ j, j < k → (s.txPayload.read j).isSome = true) (hnone : s.txPayload.read k = none) :
    readTxPayload n s = .error (.unspecifiedRead (0x100 + k)) := by
  have hmissing := Memory.readRange_first_missing (m := s.txPayload) (missing := missingTxByte) (i := 0) hk
    (by simpa using hbefore) (by simpa using hnone)
  rwa [Nat.zero_add] at hmissing

/-- Settles O22: R125's reads in order; the first that faults ends the command. -/
theorem encodeFaultsOnUnwrittenOperand : Obligations.EncodeFaultsOnUnwrittenOperand := by
  intro s hidle
  rw [exec_encode_of_idle hidle]
  refine ⟨fun hnone => ?txType, fun htype hnone => ?txLen, fun htype hlen hmax k hk hbefore hnone => ?txPayload⟩
  case txType => rw [readTxType_of_unwritten hnone, withOperand_error]
  case txLen =>
    rw [readTxType_eq_ok_iff.mpr ⟨htype, rfl⟩, withOperand_ok, readTxLen_of_unwritten hnone, withOperand_error]
  case txPayload =>
    have hshort : ¬ Config.maxPayload < s.txLen.toNat := Nat.not_lt.mpr hmax
    rw [readTxType_eq_ok_iff.mpr ⟨htype, rfl⟩, withOperand_ok, readTxLen_eq_ok_iff.mpr ⟨hlen, rfl⟩, withOperand_ok,
      if_neg hshort, readTxPayload_of_missing hk hbefore hnone, withOperand_error]

end Sys2Proof.Proofs
end

section
/-! DECODE's ends (R140 to R155, R161): what a whole frame, a bad start, a bad checksum, bad terminators and a leading
part of a frame each leave, and what holds of every end: the status, the answers consumed, and the registers left
alone. -/

namespace Sys2Proof.Proofs

open Sys2Proof.Machine

/-! A whole frame -/

/-- The length byte of a packet counts its payload. -/
theorem lengthByte_toNat {p : List Byte} (hp : p.length ≤ Config.maxPayload) :
    (BitVec.ofNat 8 p.length).toNat = p.length :=
  Nat.mod_eq_of_lt (Nat.lt_succ_of_le hp)

theorem map_fst_true_pairs (p : List Byte) : (p.map fun b => (b, Config.dle)).map Prod.fst = p := by
  simp [Function.comp_def]

/-- From its start actions on, DECODE reads an encoder's frame to its end and nothing beyond. -/
theorem decodeRun_of_encodeFrame {p : List Byte} (hp : p.length ≤ Config.maxPayload) (t : Byte)
    (rest : List RxItem) (s : State) :
    decodeRun ((encodeFrame t p).map .byte ++ rest) (startDecode s) =
      afterFrame t (BitVec.ofNat 8 p.length) (packetChecksum t p) p rest s := by
  have hframe := decodeRun_of_frame (ps := p.map fun b => (b, Config.dle))
    (by rw [List.length_map, lengthByte_toNat hp]) (frameSum_packetChecksum t p) rest s
  rwa [← encodeFrame_eq_frameHead, map_fst_true_pairs] at hframe

/-- What a whole frame with a sum of 0 leaves in the block, field by field (R151). -/
theorem afterFrame_eq {t n c : Byte} {p : List Byte} (hsum : add8 (add8 (add8 t n) (sum8 p)) c = 0)
    (rest : List RxItem) (s : State) :
    afterFrame t n c p rest s = { s with
      status := .ok, written := { s.written with status := true }, busy := false
      rxValid := true, rxType := t, rxLen := n, rxPayload := s.rxPayload.writeAll Config.maxPayload 0 p
      dstate := .idle, esc := false, dacc := 0, didx := n
      rxStream := rest, rxRequest := some ⟨1, Config.readTimeout⟩ } := by
  rw [← hsum]
  rfl

/-- Settles O25: the frame's end, with the payload read back from RX_PAYLOAD. -/
theorem decodeReceivesTheFrame : Obligations.DecodeReceivesTheFrame := by
  intro s t p rest hidle hp hstream
  obtain ⟨hbytes, hbeyond⟩ := Memory.read_writeAll (size := Config.maxPayload) p s.rxPayload 0
    (by rw [Nat.zero_add]; exact hp)
  simp only [Nat.zero_add] at hbytes hbeyond
  have hsum : add8 (add8 (add8 t (BitVec.ofNat 8 p.length)) (sum8 p)) (packetChecksum t p) = 0 := add8_neg8 _
  have hpacket := rxPacket_afterFrame (lengthByte_toNat hp).symm t (packetChecksum t p) rest { s with busy := true }
  refine ⟨_, by rw [exec_decode_of_idle hidle, hstream, decodeRun_of_encodeFrame hp],
    afterFrame_eq hsum rest { s with busy := true }, hbytes,
    fun i hi => hbeyond i (.inr hi), hpacket⟩

/-! Reads that end the command -/

/-- A failed read ends the command, and so does the end of the stream (R152). -/
theorem decodeRun_of_no_byte {stream rest : List RxItem} (h : stream = .fail :: rest ∨ (stream = [] ∧ rest = []))
    (s : State) : decodeRun stream s = raiseError .transportError (requestRead rest s) := by
  obtain rfl | ⟨rfl, rfl⟩ := h <;> rfl

/-- A byte whose row raises ends it once consumed. -/
theorem decodeRun_of_raising_byte {b : Byte} {code : Status} {s : State} (h : decodeByte b s = raiseError code s)
    (rest : List RxItem) : decodeRun (.byte b :: rest) s = raiseError code (requestRead rest s) := by
  rw [decodeRun_byte_of_ends (by rw [h]; rfl), h]
  rfl

/-- The byte read for the start DLE (R143). -/
theorem decodeByte_awaitStart {s : State} (hd : s.dstate = .awaitStart) (b : Byte) :
    decodeByte b s = if b = Config.dle then { s with dstate := .readType } else raiseError .framingError s := by
  simp only [decodeByte, byteStep, hd, expectByte]
  split <;> rfl

/-- Settles O29: each first answer that is not DLE ends the run at its first read. -/
theorem decodeStartErrors : Obligations.DecodeStartErrors := by
  intro s rest code hidle hfirst
  have hrun : decodeRun s.rxStream (startDecode { s with busy := true }) =
      raiseError code (requestRead rest (startDecode { s with busy := true })) := by
    obtain ⟨b, hb, hstream, rfl⟩ | ⟨hstream, rfl⟩ | ⟨hstream, hrest, rfl⟩ := hfirst
    · rw [hstream]
      exact decodeRun_of_raising_byte (by rw [decodeByte_awaitStart rfl, if_neg (by exact hb)]) rest
    · exact decodeRun_of_no_byte (.inl hstream) _
    · exact decodeRun_of_no_byte (.inr ⟨hstream, hrest⟩) _
  rw [exec_decode_of_idle hidle, hrun]
  rfl

/-- A byte other than the end DLE (R149). -/
theorem decodeRun_of_wrong_dle {b : Byte} {s : State} (hd : s.dstate = .awaitDleEnd) (hb : b ≠ Config.dle)
    (rest : List RxItem) : decodeRun (.byte b :: rest) s = raiseError .framingError (requestRead rest s) :=
  decodeRun_of_raising_byte (by rw [decodeByte_awaitDleEnd hd, if_neg hb]) rest

/-- A byte other than ETX (R150). -/
theorem decodeRun_of_wrong_etx {b : Byte} {s : State} (hd : s.dstate = .awaitEtx) (hb : b ≠ Config.etx)
    (rest : List RxItem) : decodeRun (.byte b :: rest) s = raiseError .framingError (requestRead rest s) :=
  decodeRun_of_raising_byte (by rw [decodeByte_awaitEtx hd, if_neg hb]) rest

/-- The end DLE is followed by the read for ETX. -/
theorem decodeRun_of_dle_end {s : State} (hd : s.dstate = .awaitDleEnd) (rest : List RxItem) :
    decodeRun (.byte Config.dle :: rest) s = decodeRun rest { s with dstate := .awaitEtx } := by
  have hbyte := decodeByte_awaitDleEnd hd Config.dle
  rw [if_pos rfl] at hbyte
  rw [decodeRun_byte_of_goes (by simp [hbyte]), hbyte]

/-- A frame head with a sum of 0 brings DECODE to the read for the end DLE, no packet being valid yet. -/
theorem exec_decode_of_good_head {s : State} {t n c : Byte × Byte} {ps : List (Byte × Byte)} {tail : List RxItem}
    (hidle : s.busy = false) (hlen : ps.length = n.1.toNat) (hsum : frameSum t n ps c = 0)
    (hstream : s.rxStream = (frameHead t n ps c).map .byte ++ tail) :
    ∃ v : State, v.dstate = .awaitDleEnd ∧ v.rxValid = false ∧ exec .decode s = .next (decodeRun tail v) := by
  have hrun := decodeRun_frameHead t n c ps tail { s with busy := true } hlen
  rw [if_pos hsum, ← hstream] at hrun
  exact ⟨_, rfl, rfl, by rw [exec_decode_of_idle hidle, hrun]⟩

/-- Settles O28: after a good checksum each tail raises its error, at the read for the end DLE or at the one for
ETX. -/
theorem decodeTerminatorErrors : Obligations.DecodeTerminatorErrors := by
  intro s t n c ps tail rest code hidle hlen hsum hstream htail
  obtain ⟨v, hdle, hnone, hexec⟩ := exec_decode_of_good_head hidle hlen hsum hstream
  have hetx (more : List RxItem) := decodeRun_of_dle_end hdle more
  have hraised : ∃ d, decodeRun tail v = raiseError code (requestRead rest { v with dstate := d }) := by
    obtain ⟨b, hb, rfl, rfl⟩ | ⟨rfl, rfl⟩ | ⟨rfl, rfl, rfl⟩ | ⟨b, hb, rfl, rfl⟩ | ⟨rfl, rfl⟩ | ⟨rfl, rfl, rfl⟩ := htail
    · exact ⟨v.dstate, decodeRun_of_wrong_dle hdle hb rest⟩
    · exact ⟨v.dstate, decodeRun_of_no_byte (.inl rfl) v⟩
    · exact ⟨v.dstate, decodeRun_of_no_byte (.inr ⟨rfl, rfl⟩) v⟩
    · exact ⟨.awaitEtx, (hetx _).trans (decodeRun_of_wrong_etx rfl hb rest)⟩
    · exact ⟨.awaitEtx, (hetx _).trans (decodeRun_of_no_byte (.inl rfl) _)⟩
    · exact ⟨.awaitEtx, (hetx _).trans (decodeRun_of_no_byte (.inr ⟨rfl, rfl⟩) _)⟩
  obtain ⟨d, hraised⟩ := hraised
  rw [hexec, hraised]
  exact ⟨_, rfl, rfl, rfl, rfl, hnone, rfl⟩

/-! A wrong checksum -/

theorem rxPacket_of_invalid {s : State} (h : s.rxValid = false) : rxPacket s = none := by simp [rxPacket, h]

/-- Escaped fields between a start DLE and the terminators are a frame head with true pairs. -/
theorem escaped_fields_eq_frameHead (t n c : Byte) (p : List Byte) :
    [Config.dle] ++ escapeByte t ++ escapeByte n ++ p.flatMap escapeByte ++ escapeByte c =
      frameHead (t, Config.dle) (n, Config.dle) (p.map fun b => (b, Config.dle)) (c, Config.dle) := by
  simp only [flatMap_escapeByte, escapeByte_eq_pairBytes]
  simp [frameHead, wireBytes]

theorem frameSum_true_pairs (t n c : Byte) (p : List Byte) :
    frameSum (t, Config.dle) (n, Config.dle) (p.map fun b => (b, Config.dle)) (c, Config.dle) =
      add8 (add8 (add8 t n) (sum8 p)) c := by
  simp [frameSum, Function.comp_def, sum8_append, sum8, add8_assoc]

/-- One byte alone closes a sum. -/
theorem add8_eq_zero_iff {a c : Byte} : add8 a c = 0 ↔ c = neg8 a := by
  rw [add8, neg8, zero_sub, add_comm]
  exact add_eq_zero_iff_eq_neg

/-- Settles O31: a checksum byte other than the packet's own leaves a sum that is not 0, so the run ends there. -/
theorem corruptedChecksumIsDetected : Obligations.CorruptedChecksumIsDetected := by
  intro t p c rest hp hc
  simp only [escaped_fields_eq_frameHead]
  set head := frameHead (t, Config.dle) (BitVec.ofNat 8 p.length, Config.dle) (p.map fun b => (b, Config.dle))
    (c, Config.dle) with hhead
  have hsum : frameSum (t, Config.dle) (BitVec.ofNat 8 p.length, Config.dle) (p.map fun b => (b, Config.dle))
      (c, Config.dle) ≠ 0 := by
    rw [frameSum_true_pairs, ne_eq, add8_eq_zero_iff]
    exact hc
  have hrun (s : State) : decodeRun ((head ++ [Config.dle, Config.etx] ++ rest).map .byte) (startDecode s) =
      raiseError .checksumMismatch (afterHead t (BitVec.ofNat 8 p.length) c p
        (([Config.dle, Config.etx] ++ rest).map .byte) (startDecode s)) := by
    rw [List.append_assoc, List.map_append, hhead,
      decodeRun_frameHead _ _ _ _ _ s (by rw [List.length_map, lengthByte_toNat hp]), if_neg hsum, map_fst_true_pairs]
  have hconsumed : (head ++ [Config.dle, Config.etx] ++ rest).length -
      (([Config.dle, Config.etx] ++ rest).map RxItem.byte).length = head.length := by
    rw [List.append_assoc, List.length_append, List.length_map, Nat.add_sub_cancel]
  simp only [decodeFrame, hrun, ← hconsumed]
  rfl

/-! The status of every end -/

/-- A DECODE has no valid packet before its end, and at its end has one exactly when STATUS is OK (R140, R153). -/
def Verdict (s : State) : Prop :=
  (Running s ∧ s.rxValid = false) ∨ (s.dstate = .idle ∧ (s.rxValid = true ↔ s.status = .ok))

theorem Verdict.before_end {s : State} (h : Verdict s) (hd : s.dstate ≠ .idle) : Running s ∧ s.rxValid = false :=
  h.resolve_right fun hended => hd hended.1

theorem Verdict.at_end {s : State} (h : Verdict s) (hd : s.dstate = .idle) : s.rxValid = true ↔ s.status = .ok :=
  (h.resolve_left fun hruns => hruns.1.in_progress hd).2

theorem verdict_raiseError {code : Status} {s : State} (hcode : code ≠ .ok) (hnone : s.rxValid = false) :
    Verdict (raiseError code s) := .inr ⟨rfl, by simp [hnone, hcode]⟩

@[simp] theorem deliver_rxValid (v : Byte) (s : State) : (deliver v s).rxValid = s.rxValid := by
  unfold deliver
  split <;> rfl

@[simp] theorem fieldByte_rxValid (b : Byte) (s : State) : (fieldByte b s).rxValid = s.rxValid := by
  unfold fieldByte
  split
  next => rw [deliver_rxValid]
  next =>
    split
    next => rfl
    next => rw [deliver_rxValid]

theorem verdict_expectByte {s : State} {after : DState} (h : Running s) (hnone : s.rxValid = false)
    (hafter : after ≠ .idle) (expected b : Byte) : Verdict (expectByte expected after b s) := by
  unfold expectByte
  split
  next => exact .inl ⟨⟨hafter, h.busy⟩, hnone⟩
  next => exact verdict_raiseError (by decide) hnone

theorem verdict_byteStep {s : State} (h : Running s) (hnone : s.rxValid = false) (b : Byte) :
    Verdict (byteStep b s) := by
  unfold byteStep
  split
  case h_1 | h_6 | h_7 => exact verdict_expectByte h hnone (by decide) _ b
  case h_2 | h_3 | h_4 | h_5 => exact .inl ⟨running_fieldByte h b, by rw [fieldByte_rxValid, hnone]⟩
  all_goals exact .inl ⟨h, hnone⟩

/-- DONE alone makes a packet valid, and sets STATUS to OK with it (R151). -/
theorem verdict_internalStep {s : State} (h : Running s) (hnone : s.rxValid = false) : Verdict (internalStep s) := by
  unfold internalStep
  split
  next =>
    split
    next => exact .inl ⟨⟨nofun, h.busy⟩, hnone⟩
    next => exact verdict_raiseError (by decide) hnone
  next => exact .inr ⟨rfl, by simp⟩
  all_goals exact .inl ⟨h, hnone⟩

theorem verdict_decodeByte {s : State} (h : Running s) (hnone : s.rxValid = false) (b : Byte) :
    Verdict (decodeByte b s) := by
  obtain ⟨hruns, hnone'⟩ | hended := verdict_byteStep h hnone b
  · exact verdict_internalStep hruns hnone'
  · rw [decodeByte, internalStep_of_settled (by simp [hended.1]) (by simp [hended.1])]
    exact .inr hended

theorem verdict_decodeRun (stream : List RxItem) {s : State} (h : Running s) (hnone : s.rxValid = false) :
    Verdict (decodeRun stream s) := by
  refine decodeRun_induction stream s ?exhausted ?failed ?withheld ?answered (.inl ⟨h, hnone⟩) h.in_progress
  case exhausted => exact fun _ h hd => verdict_raiseError (by decide) (h.before_end hd).2
  case failed => exact fun _ _ h hd => verdict_raiseError (by decide) (h.before_end hd).2
  case withheld =>
    exact fun _ _ h hd => .inl ⟨⟨hd, (h.before_end hd).1.busy⟩, (h.before_end hd).2⟩
  case answered =>
    exact fun b rest s h hd =>
      verdict_decodeByte (s := requestRead rest s) ⟨hd, (h.before_end hd).1.busy⟩ (h.before_end hd).2 b

/-- The start actions put a DECODE in progress without a packet. -/
theorem running_startDecode {s : State} (hbusy : s.busy = true) : Running (startDecode s) := ⟨nofun, hbusy⟩

/-! The answers consumed -/

/-- A run takes a leading run of answers from its stream: bytes, and at the end perhaps the Fail that ends it
(R152, R155). -/
theorem decodeRun_consumes (stream : List RxItem) (s : State) :
    ∃ used, stream = used ++ (decodeRun stream s).rxStream ∧ neverWithheld used ∧
      (∀ a, a ∈ used.dropLast → ∃ b, a = .byte b) ∧
      (used.getLast? = some .fail →
        (decodeRun stream s).busy = false ∧ (decodeRun stream s).status = .transportError) := by
  induction stream generalizing s with
  | nil => exact ⟨[], rfl, nofun, nofun, nofun⟩
  | cons a rest ih =>
    cases a with
    | fail => exact ⟨[.fail], rfl, by simp [neverWithheld], nofun, fun _ => ⟨rfl, rfl⟩⟩
    | withheld => exact ⟨[], rfl, nofun, nofun, nofun⟩
    | byte b =>
      by_cases hended : (decodeByte b s).dstate = .idle
      · rw [decodeRun_byte_of_ends hended]
        exact ⟨[.byte b], rfl, by simp [neverWithheld], nofun, nofun⟩
      · rw [decodeRun_byte_of_goes hended]
        obtain ⟨used, hstream, hanswered, hbytes, hfail⟩ := ih (decodeByte b s)
        refine ⟨.byte b :: used, congrArg (RxItem.byte b :: ·) hstream, by simpa [neverWithheld] using hanswered, ?_⟩
        cases used with
        | nil => exact ⟨nofun, nofun⟩
        | cons c used => exact ⟨List.forall_mem_cons.mpr ⟨⟨b, rfl⟩, hbytes⟩, hfail⟩

/-- Settles O35: the run from the start actions on. It takes no withheld answer, at which it waits (log 5). -/
theorem decodeConsumesALeadingRun : Obligations.DecodeConsumesALeadingRun := by
  intro s u hexec
  obtain rfl := exec_decode_next hexec
  exact decodeRun_consumes s.rxStream _

/-- A run whose answers all come ends (R155). -/
theorem decodeRun_ends {stream : List RxItem} (h : neverWithheld stream) (s : State) :
    (decodeRun stream s).dstate = .idle := by
  obtain ⟨used, hstream, -⟩ := decodeRun_consumes stream s
  refine (decodeRun_ends_or_waits stream s).resolve_right fun hwaits => h ?_
  rw [hstream]
  exact List.mem_append_right _ (List.mem_of_mem_head? hwaits)

/-- Settles O34: the run ends, its end is reported, and its verdict is the packet. -/
theorem decodeEndsWithOneStatus : Obligations.DecodeEndsWithOneStatus := by
  intro s hidle hanswered
  have hd := decodeRun_ends hanswered (startDecode { s with busy := true })
  have hruns : Running (startDecode { s with busy := true }) := running_startDecode rfl
  have hat := atRead_decodeRun s.rxStream (atRead_startDecode (s := { s with busy := true }) rfl) hruns.in_progress
  have hend := hat.course.resolve_left fun hruns => hruns.in_progress hd
  exact ⟨_, exec_decode_of_idle hidle, hend.busy, hd, hend.written, hend.code,
    (verdict_decodeRun s.rxStream hruns rfl).at_end hd⟩

/-! A leading part of a frame -/

/-- A run that reads beyond some bytes has taken them one by one, whatever follows them. -/
theorem decodeRun_of_read_through {bs : List Byte} {more : List RxItem} {s : State}
    (h : (decodeRun (bs.map .byte ++ more) s).rxStream.length < more.length) (rest : List RxItem) :
    decodeRun (bs.map .byte ++ rest) s = decodeRun rest (bs.foldl (fun s b => decodeByte b s) s) := by
  induction bs generalizing s with
  | nil => rfl
  | cons b bs ih =>
    by_cases hended : (decodeByte b s).dstate = .idle
    · rw [List.map_cons, List.cons_append, decodeRun_byte_of_ends hended, requestRead_rxStream,
        List.length_append] at h
      omega
    · rw [List.map_cons, List.cons_append, decodeRun_byte_of_goes hended] at h ⊢
      exact ih h

/-- The whole frame is read through, so a strict leading part of it is too, and the next read fails (R152). -/
theorem decodeRun_of_truncated {p : List Byte} {k : Nat} (hp : p.length ≤ Config.maxPayload) (t : Byte)
    (hk : k < (encodeFrame t p).length) (s : State) :
    ∃ v, decodeRun (((encodeFrame t p).take k).map .byte) (startDecode s) =
      raiseError .transportError (requestRead [] v) := by
  have hwhole := decodeRun_of_encodeFrame hp t [] s
  rw [← List.take_append_drop k (encodeFrame t p), List.map_append, List.append_nil] at hwhole
  have hread := decodeRun_of_read_through (bs := (encodeFrame t p).take k) (s := startDecode s)
    (by rw [hwhole]; simpa using hk) []
  rw [List.append_nil] at hread
  exact ⟨_, hread⟩

/-- Settles O30: the failed read leaves no packet, and nothing unread. -/
theorem truncatedFrameIsTransportError : Obligations.TruncatedFrameIsTransportError := by
  intro t p k hp hk
  set bs := (encodeFrame t p).take k with hbs
  have hlen : bs.length = k := List.length_take_of_le hk.le
  set start : State := { State.reset with busy := true, rxStream := bs.map .byte } with hstart
  obtain ⟨v, hrun⟩ : ∃ v, decodeRun (bs.map .byte) (startDecode start) =
      raiseError .transportError (requestRead [] v) := decodeRun_of_truncated hp t hk start
  have hverdict := verdict_decodeRun (bs.map .byte) (running_startDecode (s := start) rfl) rfl
  rw [hrun] at hverdict
  have hnone := Bool.of_not_eq_true fun hvalid => nomatch (hverdict.at_end rfl).mp hvalid
  simp only [decodeFrame, ← hstart, hrun, rxPacket_of_invalid hnone, hlen]
  rfl

/-! The registers DECODE leaves alone -/

/-- Every run makes a read, and each read asks for one byte (R52). -/
theorem decodeRun_rxRequest (stream : List RxItem) (s : State) :
    (decodeRun stream s).rxRequest = some readRequest := by
  induction stream generalizing s with
  | nil => rfl
  | cons a rest ih =>
    cases a with
    | fail | withheld => rfl
    | byte b =>
      by_cases hended : (decodeByte b s).dstate = .idle
      · rw [decodeRun_byte_of_ends hended]; rfl
      · rw [decodeRun_byte_of_goes hended]; exact ih _

theorem toNat_ne_zero {v : Byte} (h : v ≠ 0) : v.toNat ≠ 0 := fun h0 => h (BitVec.eq_of_toNat_eq h0)

/-- A counter below RX_LEN counts on without a carry. -/
theorem didx_succ_toNat {s : State} (h : s.didx.toNat < s.rxLen.toNat) : (s.didx + 1).toNat = s.didx.toNat + 1 := by
  have hbyte := s.rxLen.isLt
  rw [BitVec.toNat_add, show (1 : Byte).toNat = 1 from rfl]
  omega

/-- DIDX is 0 until the length is read, and has a byte to count while the payload is read (R34, R146). -/
def counterFits (s : State) : Prop :=
  match s.dstate with
  | .awaitStart | .readType | .readLen => s.didx = 0
  | .readPayload => s.didx.toNat < s.rxLen.toNat
  | .idle | .readChecksum | .verify | .awaitDleEnd | .awaitEtx | .done => True

/-- A DECODE that began with `m` in RX_PAYLOAD has stored below DIDX only. -/
structure StoredBelow (m : Memory) (s : State) : Prop where
  beyond : ∀ i, s.didx.toNat ≤ i → s.rxPayload.read i = m.read i
  counter : counterFits s

theorem storedBelow_raiseError {m : Memory} {s : State} (h : StoredBelow m s) (code : Status) :
    StoredBelow m (raiseError code s) := ⟨h.beyond, trivial⟩

/-- READ_LEN counts from 0, where nothing is stored yet, and READ_PAYLOAD counts the byte it stores. -/
theorem storedBelow_deliver {m : Memory} {s : State} (h : StoredBelow m s) (v : Byte) :
    StoredBelow m (deliver v s) := by
  have hcounter := h.counter
  unfold deliver
  split
  next hd =>
    simp only [counterFits, hd] at hcounter
    exact ⟨h.beyond, hcounter⟩
  next hd =>
    simp only [counterFits, hd] at hcounter
    have hbeyond := h.beyond
    rw [hcounter] at hbeyond
    refine ⟨hbeyond, ?_⟩
    by_cases hv : v = 0
    · simp only [hv, if_true, counterFits]
    · simp only [hv, if_false, counterFits]
      exact Nat.pos_of_ne_zero (toNat_ne_zero hv)
  next hd =>
    simp only [counterFits, hd] at hcounter
    have hsucc := didx_succ_toNat hcounter
    refine ⟨fun i hi => ?_, ?_⟩
    · simp only [hsucc] at hi
      exact (Memory.read_write_other _ _ (by omega)).trans (h.beyond i (by omega))
    · by_cases hlast : s.didx + 1 = s.rxLen
      · simp only [hlast, if_true, counterFits]
      · have hne : s.didx.toNat + 1 ≠ s.rxLen.toNat := fun heq => hlast (BitVec.eq_of_toNat_eq (hsucc.trans heq))
        simp only [hlast, if_false, counterFits, hsucc]
        omega
  next => exact ⟨h.beyond, trivial⟩
  all_goals exact h

theorem storedBelow_fieldByte {m : Memory} {s : State} (h : StoredBelow m s) (b : Byte) :
    StoredBelow m (fieldByte b s) := by
  unfold fieldByte
  split
  next => exact storedBelow_deliver (s := { s with esc := false }) ⟨h.beyond, h.counter⟩ Config.dle
  next =>
    split
    next => exact ⟨h.beyond, h.counter⟩
    next => exact storedBelow_deliver h b

theorem storedBelow_expectByte {m : Memory} {s : State} {after : DState} (h : StoredBelow m s)
    (hcounter : counterFits { s with dstate := after }) (expected b : Byte) :
    StoredBelow m (expectByte expected after b s) := by
  unfold expectByte
  split
  next => exact ⟨h.beyond, hcounter⟩
  next => exact storedBelow_raiseError h _

theorem storedBelow_byteStep {m : Memory} {s : State} (h : StoredBelow m s) (b : Byte) :
    StoredBelow m (byteStep b s) := by
  have hcounter := h.counter
  unfold byteStep
  split
  case h_1 hd =>
    simp only [counterFits, hd] at hcounter
    exact storedBelow_expectByte h (by exact hcounter) _ b
  case h_2 | h_3 | h_4 | h_5 => exact storedBelow_fieldByte h b
  case h_6 | h_7 => exact storedBelow_expectByte h (by exact trivial) _ b
  all_goals exact h

theorem storedBelow_internalStep {m : Memory} {s : State} (h : StoredBelow m s) : StoredBelow m (internalStep s) := by
  unfold internalStep
  split
  next =>
    split
    next => exact ⟨h.beyond, trivial⟩
    next => exact storedBelow_raiseError h _
  next => exact ⟨h.beyond, trivial⟩
  all_goals exact h

theorem storedBelow_requestRead {m : Memory} {s : State} (h : StoredBelow m s) (rest : List RxItem) :
    StoredBelow m (requestRead rest s) := ⟨h.beyond, h.counter⟩

theorem storedBelow_decodeRun {m : Memory} (stream : List RxItem) {s : State} (h : StoredBelow m s)
    (hd : s.dstate ≠ .idle) : StoredBelow m (decodeRun stream s) := by
  refine decodeRun_induction stream s ?exhausted ?failed ?withheld ?answered h hd
  case exhausted => exact fun _ h _ => storedBelow_raiseError (storedBelow_requestRead h _) _
  case failed => exact fun _ _ h _ => storedBelow_raiseError (storedBelow_requestRead h _) _
  case withheld => exact fun _ _ h _ => storedBelow_requestRead h _
  case answered =>
    exact fun b _ _ h _ => storedBelow_internalStep (storedBelow_byteStep (storedBelow_requestRead h _) b)

/-- Settles O36: the decoder's frame, its request, and the bytes from DIDX on. -/
theorem decodeChangesOnlyItsOwn : Obligations.DecodeChangesOnlyItsOwn := by
  intro s u hexec
  obtain rfl := exec_decode_next hexec
  have hstart : StoredBelow s.rxPayload (startDecode { s with busy := true }) := ⟨fun _ _ => rfl, rfl⟩
  have hframe := decodeRun_frame s.rxStream (startDecode { s with busy := true })
  refine ⟨?own, (storedBelow_decodeRun s.rxStream hstart nofun).beyond⟩
  case own =>
    have hrequest := decodeRun_rxRequest s.rxStream (startDecode { s with busy := true })
    unfold decoderFrame at hframe
    rw [hrequest] at hframe
    exact hframe

end Sys2Proof.Proofs
end

section
/-! The per-byte machine beside the algorithm of R142 (R154): read by read they take the same bytes and end in the same
state, and a packet becomes valid only over one whole frame (R161). -/

namespace Sys2Proof.Proofs

open Sys2Proof.Machine

/-! The machine over the stream of its own state -/

/-- The machine from a state on, over RX_STREAM as the state has it. -/
def receive (s : State) : State := decodeRun s.rxStream s

theorem neverWithheld_of_append {used rest : List RxItem} (h : neverWithheld (used ++ rest)) : neverWithheld rest :=
  fun hmem => h (List.mem_append_right used hmem)

theorem receive_of_byte {s : State} {b : Byte} {rest : List RxItem} (hstream : s.rxStream = .byte b :: rest)
    (hgoes : (decodeByte b s).dstate ≠ .idle) : receive s = receive (requestRead rest (decodeByte b s)) := by
  rw [receive, hstream, decodeRun_byte_of_goes hgoes, receive, decodeRun_requestRead]
  rfl

/-- A logical byte whose delivery leaves DECODE at a read is followed by the machine from there on. -/
theorem receive_of_pair {s u : State} {f : Byte × Byte} {rest : List RxItem} (hfield : s.dstate.isField = true)
    (hesc : s.esc = false) (hstream : s.rxStream = (pairBytes f).map .byte ++ rest)
    (hu : internalStep (deliver f.1 (requestRead rest s)) = u) (hgoes : u.dstate ≠ .idle) :
    receive s = receive u := by
  have hrest : u.rxStream = rest := by
    rw [← hu, deliver_requestRead, internalStep_requestRead]
    rfl
  rw [receive, hstream, decodeRun_pairBytes f rest hfield hesc, hu, if_neg hgoes, receive, hrest]

/-- The algorithm ends at a read in `t`. The machine ends there in the same state, unless the transport withholds the
answer, and no packet becomes valid. -/
structure EndsAlike (s t : State) : Prop where
  same : neverWithheld s.rxStream → receive s = t
  no_packet : (receive s).rxValid = s.rxValid

/-! One read of the algorithm -/

/-- A read takes the next byte, or ends the command. -/
theorem rxRead_cases (s : State) :
    (∃ b rest, s.rxStream = .byte b :: rest ∧ Algo.rxRead s = .ok (b, requestRead rest s)) ∨
    (∃ t, Algo.rxRead s = .error t ∧ EndsAlike s t) := by
  cases hstream : s.rxStream with
  | nil =>
    have hrun : receive s = raiseError .transportError (requestRead [] s) := by rw [receive, hstream]; rfl
    exact .inr ⟨_, by rw [Algo.rxRead, hstream], fun _ => hrun, by rw [hrun]; rfl⟩
  | cons a rest =>
    cases a with
    | byte b => exact .inl ⟨b, rest, rfl, by rw [Algo.rxRead, hstream]⟩
    | fail =>
      have hrun : receive s = raiseError .transportError (requestRead rest s) := by rw [receive, hstream]; rfl
      exact .inr ⟨_, by rw [Algo.rxRead, hstream], fun _ => hrun, by rw [hrun]; rfl⟩
    | withheld =>
      have hrun : receive s = requestRead (.withheld :: rest) s := by rw [receive, hstream]; rfl
      refine .inr ⟨_, by rw [Algo.rxRead, hstream], fun hanswered => ?_, by rw [hrun]; rfl⟩
      exact absurd (by simp [hstream]) hanswered

theorem andThen_of_ok {α β : Type} {first : Algo α} {next : α → Algo β} {s t : State} {a : α}
    (h : first s = .ok (a, t)) : first.andThen next s = next a t := by rw [Algo.andThen, h]

theorem andThen_of_error {α β : Type} {first : Algo α} {next : α → Algo β} {s t : State}
    (h : first s = .error t) : first.andThen next s = .error t := by rw [Algo.andThen, h]

theorem andThen_assoc {α β γ : Type} (first : Algo α) (next : α → Algo β) (last : β → Algo γ) :
    (first.andThen next).andThen last = first.andThen fun a => (next a).andThen last := by
  funext s
  simp only [Algo.andThen]
  cases first s <;> rfl

/-- Where the machine raises FramingError on every byte but the one expected, it reads as the algorithm does. -/
theorem sentinel_cases {s : State} {expected : Byte}
    (hrow : ∀ b, b ≠ expected → decodeByte b s = raiseError .framingError s) :
    (∃ rest, s.rxStream = .byte expected :: rest ∧ Algo.sentinel expected s = .ok ((), requestRead rest s)) ∨
    (∃ t, Algo.sentinel expected s = .error t ∧ EndsAlike s t) := by
  obtain ⟨b, rest, hstream, hread⟩ | ⟨t, hread, hend⟩ := rxRead_cases s
  · rw [Algo.sentinel, andThen_of_ok hread]
    by_cases hb : b = expected
    · subst hb
      exact .inl ⟨rest, hstream, by rw [if_pos rfl]⟩
    · have hrun : receive s = raiseError .framingError (requestRead rest s) := by
        rw [receive, hstream, decodeRun_of_raising_byte (hrow b hb)]
      exact .inr ⟨_, by rw [if_neg hb]; rfl, fun _ => hrun, by rw [hrun]; rfl⟩
  · exact .inr ⟨t, andThen_of_error hread, hend⟩

/-- In a field state a DLE opens a pair (R154). -/
theorem decodeByte_opens_pair {s : State} (hfield : s.dstate.isField = true) (hesc : s.esc = false) :
    decodeByte Config.dle s = { s with esc := true } := by
  rw [decodeByte, byteStep_of_field _ hfield, fieldByte, hesc, if_neg (by decide), if_pos rfl]
  exact internalStep_of_field hfield

/-- In a field state the machine reads one logical byte as the algorithm does (R141). -/
theorem readLogical_cases {s : State} (hfield : s.dstate.isField = true) (hesc : s.esc = false) :
    (∃ f rest, s.rxStream = (pairBytes f).map .byte ++ rest ∧
      Algo.readLogical s = .ok (f.1, requestRead rest s)) ∨
    (∃ t, Algo.readLogical s = .error t ∧ EndsAlike s t) := by
  obtain ⟨b, rest, hstream, hread⟩ | ⟨t, hread, hend⟩ := rxRead_cases s
  · rw [Algo.readLogical, andThen_of_ok hread]
    by_cases hb : b = Config.dle
    · subst hb
      set opened : State := { requestRead rest s with esc := true } with hopened
      have hgoes : receive s = receive opened := by
        have hopen := decodeByte_opens_pair hfield hesc
        rw [receive_of_byte hstream (by rw [hopen]; exact DState.isField_ne_idle hfield), hopen]
        rfl
      rw [if_pos rfl]
      obtain ⟨x, rest', hstream', hread'⟩ | ⟨t, hread', hend⟩ := rxRead_cases opened
      · refine .inl ⟨(Config.dle, x), rest', ?_, ?_⟩
        · have hrest : rest = .byte x :: rest' := hstream'
          rw [hstream, hrest, pairBytes_dle]
          rfl
        · have hclosed : { requestRead rest' opened with esc := false } = requestRead rest' s := by
            rw [hopened, ← hesc]
            rfl
          rw [← hclosed]
          exact (andThen_of_ok (t := opened) rfl).trans (andThen_of_ok hread')
      · refine .inr ⟨t, (andThen_of_ok (t := opened) rfl).trans (andThen_of_error hread'), fun hanswered => ?_,
          by rw [hgoes, hend.no_packet]; rfl⟩
        rw [hstream] at hanswered
        rw [hgoes]
        exact hend.same (neverWithheld_of_append (used := [.byte Config.dle]) hanswered)
    · exact .inl ⟨(b, 0), rest, by rw [hstream, pairBytes, if_neg hb]; rfl, by rw [if_neg hb]⟩
  · exact .inr ⟨t, andThen_of_error hread, hend⟩

/-! The machine over one logical byte, by field -/

theorem receive_of_type {s : State} {f : Byte × Byte} {rest : List RxItem} (hd : s.dstate = .readType)
    (hesc : s.esc = false) (hstream : s.rxStream = (pairBytes f).map .byte ++ rest) :
    receive s = receive { absorbD f.1 (requestRead rest s) with rxType := f.1, dstate := .readLen } := by
  refine receive_of_pair (by rw [hd]; rfl) hesc hstream ?_ nofun
  rw [deliver, requestRead_dstate, hd]
  rfl

theorem receive_of_len {s : State} {f : Byte × Byte} {rest : List RxItem} (hd : s.dstate = .readLen)
    (hesc : s.esc = false) (hstream : s.rxStream = (pairBytes f).map .byte ++ rest) :
    receive s = receive { absorbD f.1 (requestRead rest s) with
      rxLen := f.1, didx := 0, dstate := if f.1 = 0 then .readChecksum else .readPayload } := by
  refine receive_of_pair (by rw [hd]; rfl) hesc hstream ?_ (by simp only; split <;> nofun)
  rw [deliver, requestRead_dstate, hd]
  exact internalStep_of_settled (by simp only; split <;> nofun) (by simp only; split <;> nofun)

/-- A payload byte is stored where the algorithm's loop stores it. -/
def storePayload (v : Byte) (s : State) : State :=
  { absorbD v s with
    rxPayload := s.rxPayload.write Config.maxPayload s.didx.toNat v
    didx := s.didx + 1 }

theorem receive_of_payload {s : State} {f : Byte × Byte} {rest : List RxItem} (hd : s.dstate = .readPayload)
    (hesc : s.esc = false) (hstream : s.rxStream = (pairBytes f).map .byte ++ rest) :
    receive s = receive { storePayload f.1 (requestRead rest s) with
      dstate := if s.didx + 1 = s.rxLen then .readChecksum else .readPayload } := by
  refine receive_of_pair (by rw [hd]; rfl) hesc hstream ?_ (by simp only; split <;> nofun)
  rw [deliver, requestRead_dstate, hd]
  exact internalStep_of_settled (by simp only; split <;> nofun) (by simp only; split <;> nofun)

/-- The checksum is followed by the test of the sum (R148). -/
theorem receive_of_checksum {s : State} {f : Byte × Byte} {rest : List RxItem} (hd : s.dstate = .readChecksum)
    (hesc : s.esc = false) (hstream : s.rxStream = (pairBytes f).map .byte ++ rest) :
    receive s =
      if add8 s.dacc f.1 = 0 then receive { absorbD f.1 (requestRead rest s) with dstate := .awaitDleEnd }
      else raiseError .checksumMismatch { absorbD f.1 (requestRead rest s) with dstate := .verify } := by
  have hverify : deliver f.1 (requestRead rest s) =
      { absorbD f.1 (requestRead rest s) with dstate := .verify } := by
    rw [deliver, requestRead_dstate, hd]
    rfl
  split
  next hsum =>
    refine receive_of_pair (by rw [hd]; rfl) hesc hstream ?_ nofun
    rw [hverify]
    exact internalStep_verify_of_zero rfl hsum
  next hsum =>
    rw [receive, hstream, decodeRun_pairBytes f rest (by rw [hd]; rfl) hesc, hverify,
      internalStep_verify_of_ne_zero rfl hsum]
    exact if_pos rfl

theorem receive_of_dle_end {s : State} {rest : List RxItem} (hd : s.dstate = .awaitDleEnd)
    (hstream : s.rxStream = .byte Config.dle :: rest) :
    receive s = receive { requestRead rest s with dstate := .awaitEtx } := by
  have hrow := decodeByte_awaitDleEnd hd Config.dle
  rw [if_pos rfl] at hrow
  rw [receive_of_byte hstream (by rw [hrow]; nofun), hrow]
  rfl

theorem receive_of_start {s : State} {rest : List RxItem} (hd : s.dstate = .awaitStart)
    (hstream : s.rxStream = .byte Config.dle :: rest) :
    receive s = receive { requestRead rest s with dstate := .readType } := by
  have hrow := decodeByte_awaitStart hd Config.dle
  rw [if_pos rfl] at hrow
  rw [receive_of_byte hstream (by rw [hrow]; nofun), hrow]
  rfl

/-- The ETX completes the command (R151). -/
theorem receive_of_etx {s : State} {rest : List RxItem} (hd : s.dstate = .awaitEtx)
    (hstream : s.rxStream = .byte Config.etx :: rest) :
    receive s = completeOk { requestRead rest s with rxValid := true, dstate := .idle } := by
  have hrow := decodeByte_awaitEtx hd Config.etx
  rw [if_pos rfl] at hrow
  rw [receive, hstream, decodeRun_byte_of_ends (by rw [hrow]; rfl), hrow]
  rfl

/-- Before its last byte a payload counts on; at its last the counter has reached RX_LEN. -/
theorem didx_succ_eq_rxLen_iff {s : State} {k : Nat} (hlen : s.didx.toNat + (k + 1) = s.rxLen.toNat) :
    (s.didx + 1).toNat = s.didx.toNat + 1 ∧ (s.didx + 1 = s.rxLen ↔ k = 0) := by
  have hsucc := didx_succ_toNat (s := s) (by omega)
  refine ⟨hsucc, ?_⟩
  rw [← BitVec.toNat_inj, hsucc]
  omega

/-! The algorithm from each of its reads on -/

/-- The state in which a piece of pseudocode leaves the block, whether it completed or raised. -/
def leaves (piece : Algo Unit) (s : State) : State :=
  match piece s with
  | .ok (_, t) => t
  | .error t   => t

theorem leaves_of_ok {α : Type} {first : Algo α} {next : α → Algo Unit} {s t : State} {a : α}
    (h : first s = .ok (a, t)) : leaves (first.andThen next) s = leaves (next a) t := by
  rw [leaves, andThen_of_ok h, leaves]

theorem leaves_of_error {α : Type} {first : Algo α} {next : α → Algo Unit} {s t : State}
    (h : first s = .error t) : leaves (first.andThen next) s = t := by
  rw [leaves, andThen_of_error h]

/-- R142 from the read for ETX on. -/
def algoFromEtx : Algo Unit :=
  (Algo.sentinel Config.etx).andThen fun _ =>
  (Algo.enter .done).andThen fun _ =>
  Algo.update fun s => completeOk { s with rxValid := true, dstate := .idle }

/-- R142 from the read for the end DLE on. -/
def algoFromDleEnd : Algo Unit :=
  (Algo.sentinel Config.dle).andThen fun _ => (Algo.enter .awaitEtx).andThen fun _ => algoFromEtx

/-- R142 from the test of the sum on. -/
def algoFromVerify : Algo Unit := fun s =>
  if s.dacc ≠ 0 then Algo.raise .checksumMismatch s
  else ((Algo.enter .awaitDleEnd).andThen fun _ => algoFromDleEnd) s

/-- R142 from the checksum on. -/
def algoFromChecksum : Algo Unit :=
  Algo.readLogical.andThen fun c =>
  (Algo.update (absorbD c)).andThen fun _ => (Algo.enter .verify).andThen fun _ => algoFromVerify

/-- What follows the payload in R142. -/
def algoAfterPayload : Algo Unit := (Algo.enter .readChecksum).andThen fun _ => algoFromChecksum

/-- R142 from the length on. -/
def algoFromLen : Algo Unit :=
  Algo.readLogical.andThen fun n =>
  (Algo.update fun s => { absorbD n s with rxLen := n, didx := 0 }).andThen fun _ =>
  (Algo.payload n).andThen fun _ => algoAfterPayload

/-- R142 from the typeID on. -/
def algoFromType : Algo Unit :=
  Algo.readLogical.andThen fun t =>
  (Algo.update fun s => { absorbD t s with rxType := t }).andThen fun _ =>
  (Algo.enter .readLen).andThen fun _ => algoFromLen

theorem algo_decode_eq :
    Algo.decode = (Algo.sentinel Config.dle).andThen fun _ => (Algo.enter .readType).andThen fun _ => algoFromType :=
  rfl

/-! Read by read, machine and algorithm agree -/

theorem receive_eq_fromEtx {s : State} (hd : s.dstate = .awaitEtx) (hanswered : neverWithheld s.rxStream) :
    receive s = leaves algoFromEtx s := by
  have hrow (b : Byte) (hb : b ≠ Config.etx) : decodeByte b s = raiseError .framingError s := by
    rw [decodeByte_awaitEtx hd, if_neg hb]
  obtain ⟨rest, hstream, hread⟩ | ⟨t, hread, hend⟩ := sentinel_cases hrow
  · rw [receive_of_etx hd hstream, algoFromEtx, leaves_of_ok hread]
    rfl
  · rw [hend.same hanswered, algoFromEtx, leaves_of_error hread]

theorem receive_eq_fromDleEnd {s : State} (hd : s.dstate = .awaitDleEnd) (hanswered : neverWithheld s.rxStream) :
    receive s = leaves algoFromDleEnd s := by
  have hrow (b : Byte) (hb : b ≠ Config.dle) : decodeByte b s = raiseError .framingError s := by
    rw [decodeByte_awaitDleEnd hd, if_neg hb]
  obtain ⟨rest, hstream, hread⟩ | ⟨t, hread, hend⟩ := sentinel_cases hrow
  · rw [hstream] at hanswered
    rw [receive_of_dle_end hd hstream, algoFromDleEnd, leaves_of_ok hread]
    exact receive_eq_fromEtx rfl (neverWithheld_of_append (used := [.byte Config.dle]) hanswered)
  · rw [hend.same hanswered, algoFromDleEnd, leaves_of_error hread]

theorem leaves_fromVerify (s : State) :
    leaves algoFromVerify s =
      if s.dacc = 0 then leaves algoFromDleEnd { s with dstate := .awaitDleEnd }
      else raiseError .checksumMismatch s := by
  rw [leaves, algoFromVerify]
  by_cases hsum : s.dacc = 0
  · rw [if_neg (not_not.mpr hsum), if_pos hsum]
    rfl
  · rw [if_pos hsum, if_neg hsum]
    rfl

theorem receive_eq_fromChecksum {s : State} (hd : s.dstate = .readChecksum) (hesc : s.esc = false)
    (hanswered : neverWithheld s.rxStream) : receive s = leaves algoFromChecksum s := by
  obtain ⟨f, rest, hstream, hread⟩ | ⟨t, hread, hend⟩ := readLogical_cases (by rw [hd]; rfl) hesc
  · rw [hstream] at hanswered
    have hverify : leaves algoFromChecksum s =
        leaves algoFromVerify { absorbD f.1 (requestRead rest s) with dstate := .verify } := leaves_of_ok hread
    rw [receive_of_checksum hd hesc hstream, hverify, leaves_fromVerify]
    refine if_congr Iff.rfl ?_ rfl
    exact receive_eq_fromDleEnd rfl (neverWithheld_of_append hanswered)
  · rw [hend.same hanswered, algoFromChecksum, leaves_of_error hread]

theorem leaves_update {β : Type} (f : State → State) (piece : Algo β) (last : β → Algo Unit) (s : State) :
    leaves (((Algo.update f).andThen fun _ => piece).andThen last) s = leaves (piece.andThen last) (f s) := rfl

/-- With no payload byte to come the checksum is next. -/
theorem leaves_payloadLoop_zero (s : State) :
    leaves ((Algo.payloadLoop 0).andThen fun _ => algoAfterPayload) s =
      leaves algoFromChecksum { s with dstate := .readChecksum } := rfl

/-- The payload's loop: each byte is stored and counted, and after the last the checksum is read. -/
theorem receive_eq_payloadLoop (k : Nat) {s : State} (hd : s.dstate = .readPayload) (hesc : s.esc = false)
    (hlen : s.didx.toNat + (k + 1) = s.rxLen.toNat) (hanswered : neverWithheld s.rxStream) :
    receive s = leaves ((Algo.payloadLoop (k + 1)).andThen fun _ => algoAfterPayload) s := by
  have hloop : Algo.payloadLoop (k + 1) = Algo.readLogical.andThen fun v =>
      (Algo.update (storePayload v)).andThen fun _ => Algo.payloadLoop k := rfl
  rw [hloop, andThen_assoc]
  obtain ⟨f, rest, hstream, hread⟩ | ⟨t, hread, hend⟩ := readLogical_cases (by rw [hd]; rfl) hesc
  · rw [hstream] at hanswered
    have hrest := neverWithheld_of_append hanswered
    obtain ⟨hsucc, hlast⟩ := didx_succ_eq_rxLen_iff hlen
    rw [receive_of_payload hd hesc hstream, leaves_of_ok hread, leaves_update]
    cases k with
    | zero =>
      rw [if_pos (hlast.mpr rfl), leaves_payloadLoop_zero]
      exact receive_eq_fromChecksum rfl hesc hrest
    | succ k =>
      have hmore : { storePayload f.1 (requestRead rest s) with dstate := .readPayload } =
          storePayload f.1 (requestRead rest s) := by rw [← hd]; rfl
      rw [if_neg fun h => absurd (hlast.mp h) k.succ_ne_zero, hmore]
      exact receive_eq_payloadLoop k hd hesc (show (s.didx + 1).toNat + (k + 1) = s.rxLen.toNat by omega) hrest
  · rw [hend.same hanswered, leaves_of_error hread]

theorem receive_eq_fromLen {s : State} (hd : s.dstate = .readLen) (hesc : s.esc = false)
    (hanswered : neverWithheld s.rxStream) : receive s = leaves algoFromLen s := by
  obtain ⟨f, rest, hstream, hread⟩ | ⟨t, hread, hend⟩ := readLogical_cases (by rw [hd]; rfl) hesc
  · rw [hstream] at hanswered
    have hrest := neverWithheld_of_append hanswered
    have hpayload : leaves algoFromLen s = leaves ((Algo.payload f.1).andThen fun _ => algoAfterPayload)
        { absorbD f.1 (requestRead rest s) with rxLen := f.1, didx := 0 } := leaves_of_ok hread
    rw [receive_of_len hd hesc hstream, hpayload, Algo.payload]
    by_cases hn : f.1 = 0
    · rw [if_pos hn, if_pos hn]
      exact receive_eq_fromChecksum rfl hesc hrest
    · obtain ⟨k, hk⟩ := Nat.exists_eq_succ_of_ne_zero (toNat_ne_zero hn)
      rw [if_neg hn, if_neg hn, hk]
      exact receive_eq_payloadLoop k rfl hesc (by simp [hk]) hrest
  · rw [hend.same hanswered, algoFromLen, leaves_of_error hread]

theorem receive_eq_fromType {s : State} (hd : s.dstate = .readType) (hesc : s.esc = false)
    (hanswered : neverWithheld s.rxStream) : receive s = leaves algoFromType s := by
  obtain ⟨f, rest, hstream, hread⟩ | ⟨t, hread, hend⟩ := readLogical_cases (by rw [hd]; rfl) hesc
  · rw [hstream] at hanswered
    rw [receive_of_type hd hesc hstream, algoFromType, leaves_of_ok hread]
    exact receive_eq_fromLen rfl hesc (neverWithheld_of_append hanswered)
  · rw [hend.same hanswered, algoFromType, leaves_of_error hread]

theorem decodeByte_awaitStart_of_ne {s : State} {b : Byte} (hd : s.dstate = .awaitStart) (hb : b ≠ Config.dle) :
    decodeByte b s = raiseError .framingError s := by rw [decodeByte_awaitStart hd, if_neg hb]

theorem receive_eq_decode {s : State} (hd : s.dstate = .awaitStart) (hesc : s.esc = false)
    (hanswered : neverWithheld s.rxStream) : receive s = leaves Algo.decode s := by
  rw [algo_decode_eq]
  obtain ⟨rest, hstream, hread⟩ | ⟨t, hread, hend⟩ :=
    sentinel_cases fun b hb => decodeByte_awaitStart_of_ne (b := b) hd hb
  · rw [hstream] at hanswered
    rw [receive_of_start hd hstream, leaves_of_ok hread]
    exact receive_eq_fromType rfl hesc (neverWithheld_of_append (used := [.byte Config.dle]) hanswered)
  · rw [hend.same hanswered, leaves_of_error hread]

/-- Settles O32: the machine from the start actions on leaves what the algorithm leaves. -/
theorem stepTableMatchesAlgorithm : Obligations.StepTableMatchesAlgorithm := by
  intro s hidle hanswered
  rw [exec_decode_of_idle hidle]
  exact congrArg Host.Outcome.next (receive_eq_decode (s := startDecode { s with busy := true }) rfl rfl hanswered)

/-! A valid packet is one whole frame -/

/-- A field is read whole by a DECODE that comes to have a packet. -/
theorem logical_of_valid {s : State} (hvalid : (receive s).rxValid = true) (hfield : s.dstate.isField = true)
    (hesc : s.esc = false) (hnone : s.rxValid = false) :
    ∃ f rest, s.rxStream = (pairBytes f).map .byte ++ rest := by
  obtain ⟨f, rest, hstream, -⟩ | ⟨t, -, hend⟩ := readLogical_cases hfield hesc
  · exact ⟨f, rest, hstream⟩
  · rw [hend.no_packet, hnone] at hvalid
    cases hvalid

/-- So is a sentinel. -/
theorem sentinel_of_valid {s : State} {expected : Byte} (hvalid : (receive s).rxValid = true)
    (hrow : ∀ b, b ≠ expected → decodeByte b s = raiseError .framingError s) (hnone : s.rxValid = false) :
    ∃ rest, s.rxStream = .byte expected :: rest := by
  obtain ⟨rest, hstream, -⟩ | ⟨t, -, hend⟩ := sentinel_cases hrow
  · exact ⟨rest, hstream⟩
  · rw [hend.no_packet, hnone] at hvalid
    cases hvalid

theorem map_wireBytes_cons (f : Byte × Byte) (fs : List (Byte × Byte)) (rest : List RxItem) :
    (wireBytes (f :: fs)).map .byte ++ rest = (pairBytes f).map .byte ++ ((wireBytes fs).map .byte ++ rest) := by
  simp [wireBytes]

theorem terminators_of_valid {s : State} (hvalid : (receive s).rxValid = true) (hd : s.dstate = .awaitDleEnd)
    (hnone : s.rxValid = false) : ∃ rest, s.rxStream = .byte Config.dle :: .byte Config.etx :: rest := by
  obtain ⟨rest, hstream⟩ := sentinel_of_valid hvalid
    (fun b hb => by rw [decodeByte_awaitDleEnd hd, if_neg hb]) hnone
  rw [receive_of_dle_end hd hstream] at hvalid
  obtain ⟨rest', hrest⟩ := sentinel_of_valid hvalid
    (fun b hb => by rw [decodeByte_awaitEtx rfl, if_neg hb]) hnone
  have hrest : rest = .byte Config.etx :: rest' := hrest
  exact ⟨rest', by rw [hstream, hrest]⟩

/-- From READ_CHECKSUM on: the checksum, then the terminators. -/
theorem checksum_of_valid {s : State} (hvalid : (receive s).rxValid = true) (hd : s.dstate = .readChecksum)
    (hesc : s.esc = false) (hnone : s.rxValid = false) :
    ∃ c rest, s.rxStream = (wireBytes [c]).map .byte ++ .byte Config.dle :: .byte Config.etx :: rest := by
  obtain ⟨c, rest, hstream⟩ := logical_of_valid hvalid (by rw [hd]; rfl) hesc hnone
  rw [receive_of_checksum hd hesc hstream] at hvalid
  split at hvalid
  next =>
    obtain ⟨rest', hrest⟩ := terminators_of_valid hvalid rfl hnone
    have hrest : rest = .byte Config.dle :: .byte Config.etx :: rest' := hrest
    exact ⟨c, rest', by rw [hstream, hrest]; simp [wireBytes]⟩
  next =>
    rw [raiseError_rxValid] at hvalid
    exact absurd hvalid (by simp [absorbD, hnone])

/-- From READ_PAYLOAD on: the payload bytes still to come, then as from READ_CHECKSUM. -/
theorem payload_of_valid (k : Nat) {s : State} (hvalid : (receive s).rxValid = true) (hd : s.dstate = .readPayload)
    (hesc : s.esc = false) (hnone : s.rxValid = false) (hlen : s.didx.toNat + (k + 1) = s.rxLen.toNat) :
    ∃ ps c rest, ps.length = k + 1 ∧
      s.rxStream = (wireBytes (ps ++ [c])).map .byte ++ .byte Config.dle :: .byte Config.etx :: rest := by
  obtain ⟨f, rest, hstream⟩ := logical_of_valid hvalid (by rw [hd]; rfl) hesc hnone
  obtain ⟨hsucc, hlast⟩ := didx_succ_eq_rxLen_iff hlen
  rw [receive_of_payload hd hesc hstream] at hvalid
  cases k with
  | zero =>
    rw [if_pos (hlast.mpr rfl)] at hvalid
    obtain ⟨c, rest', hrest⟩ := checksum_of_valid hvalid rfl hesc hnone
    exact ⟨[f], c, rest', rfl, by rw [hstream, List.singleton_append, map_wireBytes_cons, ← hrest]; rfl⟩
  | succ k =>
    rw [if_neg fun h => absurd (hlast.mp h) k.succ_ne_zero] at hvalid
    obtain ⟨ps, c, rest', hps, hrest⟩ := payload_of_valid k hvalid rfl hesc hnone
      (show (s.didx + 1).toNat + (k + 1) = s.rxLen.toNat by omega)
    exact ⟨f :: ps, c, rest', by rw [List.length_cons, hps],
      by rw [hstream, List.cons_append, map_wireBytes_cons, ← hrest]; rfl⟩

/-- From READ_LEN on: the length, that many payload bytes, the checksum and the terminators. -/
theorem len_of_valid {s : State} (hvalid : (receive s).rxValid = true) (hd : s.dstate = .readLen)
    (hesc : s.esc = false) (hnone : s.rxValid = false) :
    ∃ n ps c rest, ps.length = n.1.toNat ∧
      s.rxStream = (wireBytes (n :: ps ++ [c])).map .byte ++ .byte Config.dle :: .byte Config.etx :: rest := by
  obtain ⟨n, rest, hstream⟩ := logical_of_valid hvalid (by rw [hd]; rfl) hesc hnone
  rw [receive_of_len hd hesc hstream] at hvalid
  by_cases hn : n.1 = 0
  · rw [if_pos hn] at hvalid
    obtain ⟨c, rest', hrest⟩ := checksum_of_valid hvalid rfl hesc hnone
    exact ⟨n, [], c, rest', by rw [hn]; rfl,
      by rw [hstream, List.singleton_append, map_wireBytes_cons, ← hrest]; rfl⟩
  · obtain ⟨k, hk⟩ := Nat.exists_eq_succ_of_ne_zero (toNat_ne_zero hn)
    rw [if_neg hn] at hvalid
    obtain ⟨ps, c, rest', hps, hrest⟩ := payload_of_valid k hvalid rfl hesc hnone (by simp [hk])
    exact ⟨n, ps, c, rest', by rw [hps, hk], by rw [hstream, List.cons_append, map_wireBytes_cons, ← hrest]; rfl⟩

/-- From READ_TYPE on: the typeID, then as from READ_LEN. -/
theorem type_of_valid {s : State} (hvalid : (receive s).rxValid = true) (hd : s.dstate = .readType)
    (hesc : s.esc = false) (hnone : s.rxValid = false) :
    ∃ t n ps c rest, ps.length = n.1.toNat ∧
      s.rxStream = (wireBytes (t :: n :: ps ++ [c])).map .byte ++ .byte Config.dle :: .byte Config.etx :: rest := by
  obtain ⟨t, rest, hstream⟩ := logical_of_valid hvalid (by rw [hd]; rfl) hesc hnone
  rw [receive_of_type hd hesc hstream] at hvalid
  obtain ⟨n, ps, c, rest', hlen, hrest⟩ := len_of_valid hvalid rfl hesc hnone
  exact ⟨t, n, ps, c, rest', hlen, by rw [hstream, List.cons_append, map_wireBytes_cons, ← hrest]; rfl⟩

/-- From AWAIT_START on: one frame, its terminators included. -/
theorem frame_of_valid {s : State} (hvalid : (receive s).rxValid = true) (hd : s.dstate = .awaitStart)
    (hesc : s.esc = false) (hnone : s.rxValid = false) :
    ∃ t n c ps rest, ps.length = n.1.toNat ∧
      s.rxStream = (frameHead t n ps c ++ [Config.dle, Config.etx]).map .byte ++ rest := by
  obtain ⟨rest, hstream⟩ := sentinel_of_valid hvalid (fun b hb => decodeByte_awaitStart_of_ne hd hb) hnone
  rw [receive_of_start hd hstream] at hvalid
  obtain ⟨t, n, ps, c, rest', hlen, hrest⟩ := type_of_valid hvalid rfl hesc hnone
  have hrest : rest = (wireBytes (t :: n :: ps ++ [c])).map .byte ++ .byte Config.dle :: .byte Config.etx :: rest' :=
    hrest
  exact ⟨t, n, c, ps, rest', hlen, by rw [hstream, hrest]; simp [frameHead]⟩

/-- A frame whose sum is not 0 leaves no packet. -/
theorem frameSum_of_valid {t n c : Byte × Byte} {ps : List (Byte × Byte)} {tail : List RxItem} {s : State}
    (hlen : ps.length = n.1.toNat)
    (hvalid : (decodeRun ((frameHead t n ps c).map .byte ++ tail) (startDecode s)).rxValid = true) :
    frameSum t n ps c = 0 := by
  by_contra hsum
  rw [decodeRun_frameHead t n c ps tail s hlen, if_neg hsum] at hvalid
  cases hvalid

/-- A run that leaves a packet has read one frame with a sum of 0, and is the run over that frame. -/
theorem decodeRun_of_valid {stream : List RxItem} {s : State}
    (hvalid : (decodeRun stream (startDecode s)).rxValid = true) :
    ∃ t n c ps rest, ps.length = n.1.toNat ∧ frameSum t n ps c = 0 ∧
      stream = (frameHead t n ps c ++ [Config.dle, Config.etx]).map .byte ++ rest := by
  have hown : receive (startDecode { s with rxStream := stream }) = decodeRun stream (startDecode s) :=
    decodeRun_withStream stream stream (startDecode s)
  obtain ⟨t, n, c, ps, rest, hlen, hstream⟩ := frame_of_valid (s := startDecode { s with rxStream := stream })
    (by rw [hown]; exact hvalid) rfl rfl rfl
  have hstream : stream = (frameHead t n ps c ++ [Config.dle, Config.etx]).map .byte ++ rest := hstream
  refine ⟨t, n, c, ps, rest, hlen, ?_, hstream⟩
  rw [hstream, List.map_append, List.append_assoc] at hvalid
  exact frameSum_of_valid hlen hvalid

/-- Settles O33: the run over the frame that was read ends OK after it with its packet. -/
theorem decodeAcceptsOnlyFrames : Obligations.DecodeAcceptsOnlyFrames := by
  intro s u hexec hvalid
  obtain rfl := exec_decode_next hexec
  obtain ⟨t, n, c, ps, rest, hlen, hsum, hstream⟩ := decodeRun_of_valid hvalid
  refine ⟨t, n, c, ps, hlen, hsum, ?_⟩
  rw [hstream, decodeRun_of_frame hlen hsum]
  exact ⟨rfl, rfl, rxPacket_afterFrame (by rwa [List.length_map]) _ _ _ _⟩

/-! Two runs over the same stream -/

/-- Two DECODEs at the same point of their runs. What an earlier command left may differ: RX_TYPE and RX_PAYLOAD, RX_LEN
where it is not being counted to, and the STATUS of a command in progress. -/
structure SamePoint (s t : State) : Prop where
  busy : s.busy = t.busy
  dstate : s.dstate = t.dstate
  esc : s.esc = t.esc
  dacc : s.dacc = t.dacc
  didx : s.didx = t.didx
  rxValid : s.rxValid = t.rxValid
  rxLen : s.dstate = .readPayload → s.rxLen = t.rxLen
  status : s.busy = false → s.status = t.status

theorem samePoint_raiseError {s t : State} (h : SamePoint s t) (code : Status) :
    SamePoint (raiseError code s) (raiseError code t) :=
  ⟨rfl, rfl, h.esc, h.dacc, h.didx, h.rxValid, nofun, fun _ => rfl⟩

theorem samePoint_requestRead {s t : State} (h : SamePoint s t) (r q : List RxItem) :
    SamePoint (requestRead r s) (requestRead q t) := { h with }

/-- DSTATE moved to the same state outside the payload. -/
theorem samePoint_enter {s t : State} (h : SamePoint s t) {d : DState} (hd : d ≠ .readPayload) :
    SamePoint { s with dstate := d } { t with dstate := d } :=
  { h with dstate := rfl, rxLen := fun h => absurd h hd }

theorem samePoint_deliver {s t : State} (h : SamePoint s t) (v : Byte) : SamePoint (deliver v s) (deliver v t) := by
  have hd := h.dstate
  unfold deliver
  rw [← hd]
  split
  next =>
    exact { h with dstate := rfl, dacc := congrArg (add8 · v) h.dacc, rxLen := nofun }
  next =>
    exact { h with dstate := rfl, dacc := congrArg (add8 · v) h.dacc, didx := rfl, rxLen := fun _ => rfl }
  next hp =>
    have hlen := h.rxLen hp
    exact { h with
      dstate := by simp only [h.didx, hlen]
      dacc := congrArg (add8 · v) h.dacc
      didx := congrArg (· + 1) h.didx
      rxLen := fun _ => hlen }
  next => exact { h with dstate := rfl, dacc := congrArg (add8 · v) h.dacc, rxLen := nofun }
  all_goals exact h

theorem samePoint_fieldByte {s t : State} (h : SamePoint s t) (b : Byte) :
    SamePoint (fieldByte b s) (fieldByte b t) := by
  unfold fieldByte
  rw [← h.esc]
  split
  next =>
    have hclosed : SamePoint { s with esc := false } { t with esc := false } := { h with esc := rfl }
    exact samePoint_deliver hclosed Config.dle
  next =>
    split
    next => exact { h with esc := rfl }
    next => exact samePoint_deliver h b

theorem samePoint_expectByte {s t : State} (h : SamePoint s t) {after : DState} (hafter : after ≠ .readPayload)
    (expected b : Byte) : SamePoint (expectByte expected after b s) (expectByte expected after b t) := by
  unfold expectByte
  split
  next => exact samePoint_enter h hafter
  next => exact samePoint_raiseError h _

theorem samePoint_byteStep {s t : State} (h : SamePoint s t) (b : Byte) :
    SamePoint (byteStep b s) (byteStep b t) := by
  unfold byteStep
  rw [← h.dstate]
  split
  case h_1 | h_6 | h_7 => exact samePoint_expectByte h (by decide) _ b
  case h_2 | h_3 | h_4 | h_5 => exact samePoint_fieldByte h b
  all_goals exact h

theorem samePoint_internalStep {s t : State} (h : SamePoint s t) : SamePoint (internalStep s) (internalStep t) := by
  unfold internalStep
  rw [← h.dstate]
  split
  next =>
    have hsum : sumIsZero t.dacc = sumIsZero s.dacc := congrArg sumIsZero h.dacc.symm
    rw [hsum]
    split
    next => exact samePoint_enter h (d := .awaitDleEnd) nofun
    next => exact samePoint_raiseError h _
  next => exact { h with busy := rfl, dstate := rfl, rxValid := rfl, rxLen := nofun, status := fun _ => rfl }
  all_goals exact h

theorem samePoint_decodeByte {s t : State} (h : SamePoint s t) (b : Byte) :
    SamePoint (decodeByte b s) (decodeByte b t) := samePoint_internalStep (samePoint_byteStep h b)

/-- From the same point over the same stream, two runs stop at the same point and leave the same answers unread. -/
theorem samePoint_decodeRun (stream : List RxItem) {s t : State} (h : SamePoint s t) :
    SamePoint (decodeRun stream s) (decodeRun stream t) ∧
      (decodeRun stream s).rxStream = (decodeRun stream t).rxStream := by
  induction stream generalizing s t with
  | nil => exact ⟨samePoint_raiseError (samePoint_requestRead h [] []) _, rfl⟩
  | cons a rest ih =>
    cases a with
    | fail => exact ⟨samePoint_raiseError (samePoint_requestRead h rest rest) _, rfl⟩
    | withheld => exact ⟨samePoint_requestRead h _ _, rfl⟩
    | byte b =>
      have hbyte := samePoint_decodeByte h b
      by_cases hended : (decodeByte b s).dstate = .idle
      · have hended' : (decodeByte b t).dstate = .idle := hbyte.dstate.symm.trans hended
        rw [decodeRun_byte_of_ends hended, decodeRun_byte_of_ends hended']
        exact ⟨samePoint_requestRead hbyte rest rest, rfl⟩
      · have hended' : (decodeByte b t).dstate ≠ .idle := fun h => hended (hbyte.dstate.trans h)
        rw [decodeRun_byte_of_goes hended, decodeRun_byte_of_goes hended']
        exact ih hbyte

/-- The start actions put any two DECODEs at the same point. -/
theorem samePoint_startDecode (s t : State) :
    SamePoint (startDecode { s with busy := true }) (startDecode { t with busy := true }) :=
  ⟨rfl, rfl, rfl, rfl, rfl, rfl, nofun, nofun⟩

/-- A packet is what the stream says, whatever state DECODE began in. -/
theorem rxPacket_decodeRun_congr (stream : List RxItem) {s t : State}
    (hvalid : (decodeRun stream (startDecode s)).rxValid = (decodeRun stream (startDecode t)).rxValid) :
    rxPacket (decodeRun stream (startDecode s)) = rxPacket (decodeRun stream (startDecode t)) := by
  cases hs : (decodeRun stream (startDecode s)).rxValid with
  | false => rw [rxPacket_of_invalid hs, rxPacket_of_invalid (hvalid.symm.trans hs)]
  | true =>
    obtain ⟨ty, n, c, ps, rest, hlen, hsum, hstream⟩ := decodeRun_of_valid hs
    have hlen' : (ps.map Prod.fst).length = n.1.toNat := by rwa [List.length_map]
    rw [hstream, decodeRun_of_frame hlen hsum, decodeRun_of_frame hlen hsum, rxPacket_afterFrame hlen',
      rxPacket_afterFrame hlen']

/-- Settles O37: two runs from the start actions on over one stream. -/
theorem decodeDependsOnlyOnTheStream : Obligations.DecodeDependsOnlyOnTheStream := by
  intro s1 s2 u1 u2 hstream hexec1 hexec2
  obtain rfl := exec_decode_next hexec1
  have hu2 : u2 = decodeRun s1.rxStream (startDecode { s2 with busy := true }) :=
    (exec_decode_next hexec2).trans (congrArg (decodeRun · _) hstream.symm)
  obtain ⟨hsame, hleft⟩ := samePoint_decodeRun s1.rxStream (samePoint_startDecode s1 s2)
  rw [hu2]
  exact ⟨hsame.busy, hsame.dstate, hleft, hsame.rxValid, rxPacket_decodeRun_congr s1.rxStream hsame.rxValid,
    hsame.status⟩

end Sys2Proof.Proofs
end

section
/-! What a step can do, for every input of the outside world: when it goes on (R189), which of the block's results it
changes (R23, R24, R31, R125), and that the transport's streams run one way (R55). -/

namespace Sys2Proof.Proofs

open Sys2Proof.Machine

/-! When an input goes on -/

theorem readTxPayload_of_holds {s : State} {n : Nat} (h : s.txPayload.holds n = true) :
    ∃ p, readTxPayload n s = .ok p :=
  Memory.readRange_total missingTxByte fun i hi => by simpa using holds_iff.mp h i hi

/-- A frame that FRAME_BUF holds whole is handed to the transport, whose every answer has its end (R53). -/
theorem sendFrame_of_holds {s : State} (h : s.frameBuf.holds s.frameLen.toNat = true) :
    ∃ t, sendFrame s = .next t := by
  obtain ⟨f, hf⟩ := Memory.readRange_total (m := s.frameBuf) .unspecifiedFrameByte (i := 0)
    fun i hi => by simpa using holds_iff.mp h i hi
  obtain ⟨t, hsend, -⟩ := sendFrame_outcomes (s := s) hf
  exact ⟨t, hsend⟩

theorem exec_encode_of_held {s : State} (hidle : s.busy = false) (hheld : operandsHeld .encode s = true) :
    ∃ t, exec .encode s = .next t := by
  simp only [operandsHeld, Bool.and_eq_true, Bool.or_eq_true, decide_eq_true_eq] at hheld
  obtain ⟨⟨htype, hlenWritten⟩, hpayload⟩ := hheld
  by_cases hlong : Config.maxPayload < s.txLen.toNat
  · exact ⟨_, exec_encode_of_long hidle htype hlenWritten hlong⟩
  · have hmax := Nat.not_lt.mp hlong
    obtain ⟨p, hp⟩ := readTxPayload_of_holds (hpayload.resolve_left hlong)
    obtain ⟨hlen, -⟩ := Memory.readRange_eq_ok.mp hp
    have hframe := frameBytes_buildFrame (t := s.txType) { s with busy := true }
      (encodeFrame_length_le (hlen.trans_le hmax))
    obtain ⟨t, hsend, -⟩ := sendFrame_outcomes hframe
    exact ⟨t, by rw [exec_encode_of_payload hidle htype hlenWritten hmax hp, hsend]⟩

theorem held_of_exec_encode {s t : State} (hexec : exec .encode s = .next t) : operandsHeld .encode s = true := by
  obtain ⟨-, htype, hlenWritten, ⟨hlong, -⟩ | ⟨-, p, hp, -⟩⟩ := exec_encode_next hexec
  · simp [operandsHeld, htype, hlenWritten, hlong]
  · simp [operandsHeld, htype, hlenWritten, holds_of_readRange hp]

/-- An idle block runs a command exactly when its operands hold values (R213). -/
theorem exec_goes_iff {s : State} (hidle : s.busy = false) (i : Instr) :
    (∃ t, exec i s = .next t) ↔ operandsHeld i s = true := by
  cases i with
  | ckReset => exact iff_of_true ⟨_, exec_ckReset_of_idle hidle⟩ rfl
  | ckFinalize => exact iff_of_true ⟨_, exec_ckFinalize_of_idle hidle⟩ rfl
  | decode => exact iff_of_true ⟨_, exec_decode_of_idle hidle⟩ rfl
  | ckAbsorb =>
    cases hdin : s.written.din with
    | true => exact iff_of_true ⟨_, exec_ckAbsorb_of_written hidle hdin⟩ hdin
    | false => simp [exec_ckAbsorb_of_unwritten hidle hdin, operandsHeld, hdin]
  | encode => exact ⟨fun ⟨_, hexec⟩ => held_of_exec_encode hexec, exec_encode_of_held hidle⟩

/-- CMD is no operand. -/
theorem operandsHeld_withCmd (i : Instr) (w : Byte) (s : State) :
    operandsHeld i { s with cmd := w } = operandsHeld i s := by
  cases i <;> rfl

theorem runCommand_goes_iff {s : State} (hidle : s.busy = false) (w : Byte) :
    (∃ t, runCommand w s = .next t) ↔ commandHeld w s = true := by
  cases hw : decodeCommand w with
  | error e => simp [runCommand, commandHeld, hw]
  | ok i =>
    rw [runCommand_of_ok hw, exec_goes_iff (s := { s with cmd := w }) hidle, operandsHeld_withCmd, commandHeld, hw]

/-- Of the writes R21 gives, only that of CMD asks for more. -/
theorem writeReg_goes_iff {r : Reg} {s : State} (hidle : s.busy = false) (hdir : r.hostWritable = true)
    (v : LenWord) :
    (∃ t, writeReg r v s = .next t) ↔ r ≠ .cmd ∨ commandHeld (v.setWidth 8) s = true := by
  cases r with
  | cmd => simpa [writeReg] using runCommand_goes_iff hidle (v.setWidth 8)
  | din | txType | txLen | txPayload i => exact iff_of_true ⟨_, rfl⟩ (.inl nofun)
  | status | busy | ckResult | rxValid | rxType | rxLen | rxPayload i => cases hdir

theorem hostWrite_goes_iff {s : State} (num : Nat) (v : LenWord) :
    (∃ t, hostWrite num v s = .next t) ↔ admitted (.hostWrite num v) s = true := by
  cases hr : Reg.ofNumber num with
  | none => simp [hostWrite_of_unassigned hr, admitted, hr]
  | some r =>
    obtain rfl := number_of_ofNumber hr
    simp only [admitted, hr, Bool.and_eq_true, Bool.or_eq_true, Bool.not_eq_true', decide_eq_true_eq]
    constructor
    · rintro ⟨t, hwrite⟩
      obtain ⟨r', hr', hdir, hidle, hfits, hreg⟩ := hostWrite_next hwrite
      obtain rfl : r = r' := Option.some.inj (hr.symm.trans hr')
      exact ⟨⟨⟨hdir, hidle⟩, hfits⟩, (writeReg_goes_iff hidle hdir v).mp ⟨t, hreg⟩⟩
    · rintro ⟨⟨⟨hdir, hidle⟩, hfits⟩, hcommand⟩
      rw [hostWrite_of_admitted hdir hidle hfits]
      exact (writeReg_goes_iff hidle hdir v).mpr hcommand

/-- The port reads a register that is not held back. -/
theorem hostRead_of_admitted {r : Reg} {s : State} (hdir : r.hostReadable = true)
    (hfree : (s.busy && r.heldWhileBusy) = false) :
    hostRead r.number s =
      withOperand (readReg r s) fun v => .next { s with hostReads := s.hostReads ++ [(r.number, v)] } := by
  simp [hostRead, hdir, hfree]

theorem hostRead_goes_iff {s : State} (num : Nat) :
    (∃ t, hostRead num s = .next t) ↔ admitted (.hostRead num) s = true := by
  cases hr : Reg.ofNumber num with
  | none => simp [hostRead_of_unassigned hr, admitted, hr]
  | some r =>
    obtain rfl := number_of_ofNumber hr
    simp only [admitted, hr, Bool.and_eq_true, Bool.not_eq_true']
    constructor
    · rintro ⟨t, hread⟩
      obtain ⟨r', v, hr', hdir, hfree, hv, -⟩ := hostRead_next hread
      obtain rfl : r = r' := Option.some.inj (hr.symm.trans hr')
      exact ⟨⟨hdir, hfree⟩, (readReg_eq_ok_iff hdir).mp ⟨v, hv⟩⟩
    · rintro ⟨⟨hdir, hfree⟩, hheld⟩
      obtain ⟨v, hv⟩ := readReg_of_held hdir hheld
      exact ⟨_, by rw [hostRead_of_admitted hdir hfree, hv, withOperand_ok]⟩

/-- A waking always goes on: an ENCODE that waits has its frame (R122). -/
theorem transportWake_goes {s : State} (h : s.Inv) : ∃ t, transportWake s = .next t := by
  unfold transportWake
  split
  next hbusy =>
    split
    next hd =>
      obtain ⟨-, -, hheld⟩ := h.frame_held hbusy hd
      exact sendFrame_of_holds (s := { s with txAnswers := wakeTx s.txAnswers }) hheld
    next => exact ⟨_, rfl⟩
  next => exact ⟨_, rfl⟩

/-- Settles O43: by the kind of input; only a waking needs the invariant. That a waking always goes on rests on log 5, the
registers held back on log 10, the refusal of wide values on log 6. -/
theorem stopsAreExactlyTheListedEvents : Obligations.StopsAreExactlyTheListedEvents := by
  intro s a h
  cases a with
  | hostWrite num v => exact hostWrite_goes_iff num v
  | hostRead num => exact hostRead_goes_iff num
  | transportWake => exact iff_of_true (transportWake_goes h) rfl
  | hardReset sent => exact iff_of_true ⟨_, rfl⟩ rfl

/-! What a command changes -/

/-- The write and the end of an ENCODE, whatever DSTATE is: STATUS, BUSY, DSTATE, TX_LOG and the write answers. -/
theorem sendFrame_changes {s t : State} (h : sendFrame s = .next t) :
    t = { s with
      status := t.status, written := { s.written with status := t.written.status }, busy := t.busy
      dstate := t.dstate, txLog := t.txLog, txAnswers := t.txAnswers, draws := t.draws } := by
  obtain ⟨f, -, hend⟩ := withOperand_next h
  obtain ⟨sent, k, hw⟩ | ⟨k, hw⟩ | ⟨k, hw⟩ := txWrite_cases f s <;> rw [hw] at hend <;> cases hend
  case inl => rfl
  case inr.inl => rfl
  case inr.inr => rfl

/-- TX_LOG gains a leading part of the frame (R53). -/
theorem sendFrame_txLog {s t : State} (h : sendFrame s = .next t) : s.txLog <+: t.txLog := by
  obtain ⟨f, hf, -⟩ := withOperand_next h
  obtain ⟨u, hu, hend⟩ := sendFrame_outcomes hf
  obtain rfl : t = u := Host.Outcome.next.inj (h.symm.trans hu)
  obtain ⟨-, -, hlog⟩ | ⟨-, -, sent, hlog⟩ | ⟨-, -, hlog, -⟩ := hend
  · exact ⟨_, hlog.symm⟩
  · exact ⟨_, hlog.symm⟩
  · exact ⟨[], by rw [hlog, List.append_nil]⟩

/-- ENCODE leaves CK_RESULT, ACC, RX_VALID and RX_STREAM alone (R128), and only adds to TX_LOG. -/
theorem exec_encode_keeps {s t : State} (h : exec .encode s = .next t) :
    t.ckResult = s.ckResult ∧ t.acc = s.acc ∧ t.rxValid = s.rxValid ∧ t.rxStream = s.rxStream ∧
      s.txLog <+: t.txLog := by
  obtain ⟨-, -, -, ⟨-, rfl⟩ | ⟨-, p, -, hsend⟩⟩ := exec_encode_next h
  · exact ⟨rfl, rfl, rfl, rfl, [], List.append_nil _⟩
  · rw [buildFrame_frame] at hsend
    have hlog := sendFrame_txLog hsend
    rw [sendFrame_changes hsend]
    exact ⟨rfl, rfl, rfl, rfl, hlog⟩

/-- A run consumes its stream from the head. -/
theorem decodeRun_rxStream (stream : List RxItem) (s : State) : (decodeRun stream s).rxStream <:+ stream := by
  obtain ⟨used, hstream, -⟩ := decodeRun_consumes stream s
  exact ⟨used, hstream.symm⟩

/-- A DECODE leaves CK_RESULT, ACC and TX_LOG alone. -/
theorem decoderFrame_keeps {s t : State} (h : decoderFrame s t) :
    t.ckResult = s.ckResult ∧ t.acc = s.acc ∧ t.txLog = s.txLog := by
  unfold decoderFrame at h
  rw [h]
  exact ⟨rfl, rfl, rfl⟩

theorem exec_decode_keeps {s t : State} (h : exec .decode s = .next t) :
    t.ckResult = s.ckResult ∧ t.acc = s.acc ∧ t.txLog = s.txLog ∧ t.rxStream <:+ s.rxStream := by
  obtain rfl := exec_decode_next h
  obtain ⟨hck, hacc, hlog⟩ := decoderFrame_keeps (decodeRun_frame s.rxStream (startDecode { s with busy := true }))
  exact ⟨hck, hacc, hlog, decodeRun_rxStream _ _⟩

/-- An accumulator command leaves the transport and RX_VALID alone; CK.FINALIZE keeps ACC, and the other two
CK_RESULT. -/
theorem exec_accumulator_keeps {i : Instr} {s t : State} (hi : i = .ckReset ∨ i = .ckAbsorb ∨ i = .ckFinalize)
    (h : exec i s = .next t) :
    t.rxValid = s.rxValid ∧ t.txLog = s.txLog ∧ t.rxStream = s.rxStream ∧
      (t.ckResult = s.ckResult ∨ i = .ckFinalize) ∧ (t.acc = s.acc ∨ i = .ckReset ∨ i = .ckAbsorb) := by
  have hidle : s.busy = false := Bool.of_not_eq_true fun hbusy => by
    rw [exec_of_busy hbusy] at h; cases h
  obtain rfl | rfl | rfl := hi
  · rw [exec_ckReset_of_idle hidle] at h
    cases h
    simp
  · rw [exec_ckAbsorb_of_idle hidle] at h
    obtain ⟨b, -, hend⟩ := withOperand_next h
    cases hend
    simp
  · rw [exec_ckFinalize_of_idle hidle] at h
    cases h
    simp

/-! What a step changes -/

/-- Between two states, CK_RESULT, ACC, RX_VALID and TX_LOG have changed only where the given causes allow it. -/
structure ChangedOnlyBy (ckResult acc rxValid txLog : Prop) (s t : State) : Prop where
  ckResult : t.ckResult ≠ s.ckResult → ckResult
  acc : t.acc ≠ s.acc → acc
  rxValid : t.rxValid ≠ s.rxValid → rxValid
  txLog : t.txLog ≠ s.txLog → txLog

theorem changedOnlyBy_of_eq {ckResult acc rxValid txLog : Prop} {s t : State} (hck : t.ckResult = s.ckResult)
    (hacc : t.acc = s.acc) (hvalid : t.rxValid = s.rxValid) (hlog : t.txLog = s.txLog) :
    ChangedOnlyBy ckResult acc rxValid txLog s t :=
  ⟨fun hne => absurd hck hne, fun hne => absurd hacc hne, fun hne => absurd hvalid hne, fun hne => absurd hlog hne⟩

/-- Each result has its command (R23, R24, R31, R125). -/
theorem exec_changes {i : Instr} {s t : State} (h : exec i s = .next t) :
    ChangedOnlyBy (i = .ckFinalize) (i = .ckReset ∨ i = .ckAbsorb) (i = .decode) (i = .encode) s t := by
  have haccumulator (hi : i = .ckReset ∨ i = .ckAbsorb ∨ i = .ckFinalize) :
      ChangedOnlyBy (i = .ckFinalize) (i = .ckReset ∨ i = .ckAbsorb) (i = .decode) (i = .encode) s t := by
    obtain ⟨hvalid, hlog, -, hck, hacc⟩ := exec_accumulator_keeps hi h
    exact ⟨hck.resolve_left, hacc.resolve_left, fun hne => absurd hvalid hne, fun hne => absurd hlog hne⟩
  cases i with
  | ckReset => exact haccumulator (.inl rfl)
  | ckAbsorb => exact haccumulator (.inr (.inl rfl))
  | ckFinalize => exact haccumulator (.inr (.inr rfl))
  | encode =>
    obtain ⟨hck, hacc, hvalid, -, -⟩ := exec_encode_keeps h
    exact ⟨fun hne => absurd hck hne, fun hne => absurd hacc hne, fun hne => absurd hvalid hne, fun _ => rfl⟩
  | decode =>
    obtain ⟨hck, hacc, hlog, -⟩ := exec_decode_keeps h
    exact ⟨fun hne => absurd hck hne, fun hne => absurd hacc hne, fun _ => rfl, fun hne => absurd hlog hne⟩

/-- TX_LOG only grows at its end, and RX_STREAM only loses answers at its head (R55). -/
def OneWay (s t : State) : Prop := s.txLog <+: t.txLog ∧ t.rxStream <:+ s.rxStream

theorem oneWay_of_eq {s t : State} (hlog : t.txLog = s.txLog) (hstream : t.rxStream = s.rxStream) : OneWay s t :=
  ⟨by rw [hlog], by rw [hstream]⟩

theorem exec_oneWay {i : Instr} {s t : State} (h : exec i s = .next t) : OneWay s t := by
  have haccumulator (hi : i = .ckReset ∨ i = .ckAbsorb ∨ i = .ckFinalize) : OneWay s t := by
    obtain ⟨-, hlog, hstream, -⟩ := exec_accumulator_keeps hi h
    exact oneWay_of_eq hlog hstream
  cases i with
  | ckReset => exact haccumulator (.inl rfl)
  | ckAbsorb => exact haccumulator (.inr (.inl rfl))
  | ckFinalize => exact haccumulator (.inr (.inr rfl))
  | encode =>
    obtain ⟨-, -, -, hstream, hlog⟩ := exec_encode_keeps h
    exact ⟨hlog, by rw [hstream]⟩
  | decode =>
    obtain ⟨-, -, hlog, hstream⟩ := exec_decode_keeps h
    exact ⟨by rw [hlog], hstream⟩

/-- A host write that goes on issues the command whose word it carries, or gives an operand its value. -/
theorem hostWrite_cases {num : Nat} {v : LenWord} {s t : State} (h : hostWrite num v s = .next t) :
    (∃ i, num = 0x00 ∧ v = (encodeCommand i).setWidth Config.lenW ∧
      exec i { s with cmd := encodeCommand i } = .next t) ∨
    t = { s with
      din := t.din, txType := t.txType, txLen := t.txLen, txPayload := t.txPayload, written := t.written } := by
  obtain ⟨r, hr, hdir, -, hfits, hreg⟩ := hostWrite_next h
  cases r with
  | cmd =>
    obtain ⟨i, hword, hexec⟩ := runCommand_next hreg
    have hbyte := setWidth_byte_of_fits (r := .cmd) rfl hfits
    rw [decodeCommand_eq_ok_iff.mp hword] at hbyte hexec
    exact .inl ⟨i, (number_of_ofNumber hr).symm, hbyte.symm, hexec⟩
  | din | txType | txLen | txPayload i => cases hreg; exact .inr rfl
  | status | busy | ckResult | rxValid | rxType | rxLen | rxPayload i => cases hdir

theorem resumeDecode_frame (s : State) : decoderFrame s (resumeDecode s) := by
  rw [resumeDecode]
  split
  next => exact internalStep_frame s
  next => exact decoderFrame_trans (internalStep_frame s) (decodeRun_frame _ _)

/-- The internal rows read nothing (R154). -/
theorem internalStep_rxStream (s : State) : (internalStep s).rxStream = s.rxStream := by
  unfold internalStep
  split
  next => split <;> rfl
  all_goals rfl

theorem resumeDecode_rxStream (s : State) : (resumeDecode s).rxStream <:+ s.rxStream := by
  rw [resumeDecode, ← internalStep_rxStream s]
  split
  next => exact List.suffix_rfl
  next => exact decodeRun_rxStream _ _

theorem wakeRx_suffix (stream : List RxItem) : wakeRx stream <:+ stream := by
  unfold wakeRx
  split
  next => exact List.suffix_cons _ _
  next => exact List.suffix_rfl

/-- A reset adds to TX_LOG only what an interrupted ENCODE had sent (R211). -/
theorem encodeWaiting_of_hardReset_txLog {sent : Nat} {s : State} (h : (hardReset sent s).txLog ≠ s.txLog) :
    s.busy = true ∧ s.dstate = .idle := by
  by_contra hnone
  refine h ?_
  have hno : s.busy = false ∨ s.dstate ≠ .idle := by
    cases hbusy : s.busy with
    | false => exact .inl rfl
    | true => exact .inr fun hd => hnone ⟨hbusy, hd⟩
  rw [hardReset, interruptedBytes_of_no_write hno, List.append_nil]

/-- The causes R23, R24, R31, R125, R210 and R211 name, for an input that is performed. -/
theorem perform_changes {a : Input} {s t : State} (h : perform a s = .next t) :
    ChangedOnlyBy
      (a = .hostWrite 0x00 0x03 ∨ ∃ q, a = .hardReset q)
      (a = .hostWrite 0x00 0x01 ∨ a = .hostWrite 0x00 0x02 ∨ ∃ q, a = .hardReset q)
      (a = .hostWrite 0x00 0x05 ∨ (a = .transportWake ∧ s.busy = true ∧ s.dstate ≠ .idle) ∨ ∃ q, a = .hardReset q)
      (a = .hostWrite 0x00 0x04 ∨
        ((a = .transportWake ∨ ∃ q, a = .hardReset q) ∧ s.busy = true ∧ s.dstate = .idle)) s t := by
  cases a with
  | hostWrite num v =>
    obtain ⟨i, rfl, rfl, hexec⟩ | hframe := hostWrite_cases h
    · have hchanges := exec_changes hexec
      refine ⟨fun hne => ?ckResult, fun hne => ?acc, fun hne => ?rxValid, fun hne => ?txLog⟩
      case ckResult => rw [hchanges.ckResult hne]; exact .inl rfl
      case acc =>
        obtain rfl | rfl := hchanges.acc hne
        · exact .inl rfl
        · exact .inr (.inl rfl)
      case rxValid => rw [hchanges.rxValid hne]; exact .inl rfl
      case txLog => rw [hchanges.txLog hne]; exact .inl rfl
    · rw [hframe]
      exact changedOnlyBy_of_eq rfl rfl rfl rfl
  | hostRead num =>
    obtain ⟨-, v, -, -, -, -, rfl⟩ := hostRead_next h
    exact changedOnlyBy_of_eq rfl rfl rfl rfl
  | transportWake =>
    obtain ⟨-, rfl⟩ | ⟨hbusy, hd, hsend⟩ | ⟨hbusy, hd, rfl⟩ := transportWake_next h
    · exact changedOnlyBy_of_eq rfl rfl rfl rfl
    · rw [sendFrame_changes hsend]
      exact ⟨fun hne => absurd rfl hne, fun hne => absurd rfl hne, fun hne => absurd rfl hne,
        fun _ => .inr ⟨.inl rfl, hbusy, hd⟩⟩
    · obtain ⟨hck, hacc, hlog⟩ := decoderFrame_keeps (resumeDecode_frame { s with rxStream := wakeRx s.rxStream })
      exact ⟨fun hne => absurd hck hne, fun hne => absurd hacc hne, fun _ => .inr (.inl ⟨rfl, hbusy, hd⟩),
        fun hne => absurd hlog hne⟩
  | hardReset sent =>
    cases h
    exact ⟨fun _ => .inr ⟨sent, rfl⟩, fun _ => .inr (.inr ⟨sent, rfl⟩), fun _ => .inr (.inr ⟨sent, rfl⟩),
      fun hne => .inr ⟨.inr ⟨sent, rfl⟩, encodeWaiting_of_hardReset_txLog hne⟩⟩

/-- Settles O46: a step without an input changes nothing; the others change what their input may. -/
theorem resultsChangeOnlyByTheirCommands : Obligations.ResultsChangeOnlyByTheirCommands := by
  intro s t hstep
  obtain ⟨-, rfl⟩ | ⟨a, rest, hinputs, hperform⟩ := step_next hstep
  · simp
  · obtain ⟨hck, hacc, hvalid, hlog⟩ := perform_changes hperform
    rw [hinputs]
    refine ⟨fun hne => ?ckResult, fun hne => ?acc, fun hne => ?rxValid, fun hne => ?txLog⟩
    case ckResult => simpa using hck hne
    case acc => simpa using hacc hne
    case rxValid => simpa using hvalid hne
    case txLog => simpa using hlog hne

theorem transportWake_oneWay {s t : State} (h : transportWake s = .next t) : OneWay s t := by
  obtain ⟨-, rfl⟩ | ⟨-, -, hsend⟩ | ⟨-, -, rfl⟩ := transportWake_next h
  · exact oneWay_of_eq rfl rfl
  · have hlog := sendFrame_txLog hsend
    exact ⟨hlog, by rw [sendFrame_changes hsend]⟩
  · obtain ⟨-, -, hlog⟩ := decoderFrame_keeps (resumeDecode_frame { s with rxStream := wakeRx s.rxStream })
    exact ⟨by rw [hlog], (resumeDecode_rxStream _).trans (wakeRx_suffix s.rxStream)⟩

theorem perform_oneWay {a : Input} {s t : State} (h : perform a s = .next t) : OneWay s t := by
  cases a with
  | hostWrite num v =>
    obtain ⟨i, -, -, hexec⟩ | hframe := hostWrite_cases h
    · have hone := exec_oneWay hexec
      exact hone
    · rw [hframe]
      exact oneWay_of_eq rfl rfl
  | hostRead num =>
    obtain ⟨-, v, -, -, -, -, rfl⟩ := hostRead_next h
    exact oneWay_of_eq rfl rfl
  | transportWake => exact transportWake_oneWay h
  | hardReset sent =>
    cases h
    exact ⟨⟨_, rfl⟩, List.suffix_rfl⟩

/-- Settles O47: by the kind of input the step takes. -/
theorem transportStreamsAreOneWay : Obligations.TransportStreamsAreOneWay := by
  intro s t hstep
  obtain ⟨-, rfl⟩ | ⟨a, rest, -, hperform⟩ := step_next hstep
  · exact oneWay_of_eq rfl rfl
  · have hone := perform_oneWay hperform
    exact hone

end Sys2Proof.Proofs
end
